-- ==== Sys2Proof/Word.lean ====
section
/-!
DEFINITION. The two word types of the block: a byte, and the 16-bit command word of the operations of both agents.
-/

namespace Sys2Proof

/-- One register, payload, mask or immediate: 8 bits, unsigned (R7, R9). -/
abbrev Byte := BitVec 8

/-- One command word: 16 bits, the only instruction length there is (R80, R86). -/
abbrev CmdWord := BitVec 16

end Sys2Proof
end

