-- ==== Sys2Proof/Syntax.lean ====
section
/-!
DEFINITION. The operations of both agents as data: agents, register indices, formats, one constructor per row of the opcode map
(R83), and the pseudo-operations (R94, R95). Meaning is the machine's alone.
-/

namespace Sys2Proof

/-- The two agents (R20, R229), `op[5]` of a command word (R80). -/
inductive Agent where
  /-- The firmware, which reaches the block through the CPU port. -/
  | cpu
  /-- The debug probe, which reaches the block through the probe port. -/
  | probe
deriving DecidableEq, Repr, Inhabited

/-- A register index `i` ∈ 0..3 (R26): RX flags, RX payload, TX flags or status, TX payload or message. -/
inductive RegIx where
  | r0
  | r1
  | r2
  | r3
deriving DecidableEq, Repr

/-- The two directions (R35, glossary): RX is probe to firmware, TX is firmware to probe. -/
inductive Dir where
  | rx
  | tx
deriving DecidableEq, Repr

/-- The four operand formats (R81). -/
inductive Format where
  /-- `op` only. -/
  | n
  /-- `op` and `r`. -/
  | r
  /-- `op`, `r` and `imm`. -/
  | ri
  /-- `op` and `imm`. -/
  | i
deriving DecidableEq, Repr

/-- The three fields of a command word (R80): bits 15:10, 9:8 and 7:0. -/
structure Fields where
  op : BitVec 6
  r : BitVec 2
  imm : Byte
deriving DecidableEq, Repr

/-- One operation of either agent: one constructor per row of the opcode map (R83). -/
inductive Instr where
  /-- `CRD r` (R100). -/
  | crd (r : RegIx)
  /-- `CWR r, #imm` (R101). -/
  | cwr (r : RegIx) (imm : Byte)
  /-- `CBS r, #m` (R102). -/
  | cbs (r : RegIx) (m : Byte)
  /-- `CBC r, #m` (R103). -/
  | cbc (r : RegIx) (m : Byte)
  /-- `LENRX` (R120). -/
  | lenrx
  /-- `LENTX` (R121). -/
  | lentx
  /-- `LFULRX` (R122). -/
  | lfulrx
  /-- `LBSYTX` (R123). -/
  | lbsytx
  /-- `LSETTX` (R124). -/
  | lsettx
  /-- `LCLRRX` (R125). -/
  | lclrrx
  /-- `LRDRX` (R126). -/
  | lrdrx
  /-- `LWRTX #b` (R127). -/
  | lwrtx (b : Byte)
  /-- `ENRX` (R140). -/
  | enrx
  /-- `ENTX` (R141). -/
  | entx
  /-- `POLL` (R142). -/
  | poll
  /-- `RECV` (R143, R144). -/
  | recv
  /-- `XMIT #b` (R145 to R147). -/
  | xmit (b : Byte)
  /-- `XMITR` (R148). -/
  | xmitr
  /-- `JMP #t` (R200). -/
  | jmp (t : Byte)
  /-- `JZ #t` (R201). -/
  | jz (t : Byte)
  /-- `JNZ #t` (R202). -/
  | jnz (t : Byte)
  /-- `HALT` (R203). -/
  | halt
  /-- `PRD r` (R170). -/
  | prd (r : RegIx)
  /-- `PWR r, #imm` (R171). -/
  | pwr (r : RegIx) (imm : Byte)
  /-- `ATTRX` (R172). -/
  | attrx
  /-- `DETRX` (R173). -/
  | detrx
  /-- `ATTTX` (R174). -/
  | atttx
  /-- `DETTX` (R175). -/
  | dettx
  /-- `PUTRX #b` (R176). -/
  | putrx (b : Byte)
  /-- `TAKETX` (R177, R178). -/
  | taketx
  /-- `PCLRST` (R179). -/
  | pclrst
deriving DecidableEq, Repr

/-- The agent an operation belongs to (R83, column "agent"). -/
def Instr.agent : Instr → Agent
  | .crd _ | .cwr _ _ | .cbs _ _ | .cbc _ _ => .cpu
  | .lenrx | .lentx | .lfulrx | .lbsytx | .lsettx | .lclrrx | .lrdrx | .lwrtx _ => .cpu
  | .enrx | .entx | .poll | .recv | .xmit _ | .xmitr => .cpu
  | .jmp _ | .jz _ | .jnz _ | .halt => .cpu
  | .prd _ | .pwr _ _ | .attrx | .detrx | .atttx | .dettx | .putrx _ | .taketx | .pclrst => .probe

/-- The format of an operation (R83, column "format"). -/
def Instr.format : Instr → Format
  | .crd _ | .prd _ => .r
  | .cwr _ _ | .cbs _ _ | .cbc _ _ | .pwr _ _ => .ri
  | .lwrtx _ | .xmit _ | .jmp _ | .jz _ | .jnz _ | .putrx _ => .i
  | .lenrx | .lentx | .lfulrx | .lbsytx | .lsettx | .lclrrx | .lrdrx => .n
  | .enrx | .entx | .poll | .recv | .xmitr | .halt => .n
  | .attrx | .detrx | .atttx | .dettx | .taketx | .pclrst => .n

/-- The assembler's pseudo-operations: the non-blocking patterns (R94) and the byte-stream bridge (R95). -/
inductive Pseudo where
  /-- `WAITRX`: spin until RX is enabled. -/
  | waitrx
  /-- `TRYRECV #skip`: receive only when a byte is available now. -/
  | tryrecv (skip : Byte)
  /-- `WAITBYTE`: spin until `POLL` is true, without consuming. -/
  | waitbyte
  /-- `GETC`: exactly `RECV`. -/
  | getc
  /-- `PUTC #b`: exactly `XMIT #b`. -/
  | putc (b : Byte)
  /-- `PUTCR`: exactly `XMITR`. -/
  | putcr
deriving DecidableEq, Repr

end Sys2Proof
end

