-- ==== Sys2Proof/Config.lean ====
section
/-!
DEFINITION. What an instance of the block fixes for its whole life (R3, R7), and the one free value: the scheduler's choice.
The configuration is an argument of every claim: State holds it as plain data and no step writes it.
-/

namespace Sys2Proof

/-- The three register-layout variants (R3, R63). -/
inductive Variant where
  /-- Independent flags. -/
  | A
  /-- As A, but RX polls by equality. -/
  | B
  /-- OCD message register. -/
  | C
deriving DecidableEq, Repr

/-- The implementation parameters of R7 that a claim leaves open. -/
structure Config where
  /-- VARIANT, fixed per build. -/
  variant : Variant
  /-- The place of `C_EN` above bit 0: the mask has exactly bit `cEnBit + 1` set, so it is one bit and never 0x01 (R7, R29, D6). -/
  cEnBit : Fin 7
  /-- `C_STATUS_SET_ON_CPU_WRITE` (R34, D12). -/
  statusSetOnCpuWrite : Bool
  /-- `ADDR(VARIANT, 0)` (R60, D8). -/
  addr0 : Nat
  /-- `ADDR(VARIANT, 1)`. -/
  addr1 : Nat
  /-- `ADDR(VARIANT, 2)`. -/
  addr2 : Nat
  /-- `ADDR(VARIANT, 3)`. -/
  addr3 : Nat
deriving DecidableEq, Repr

/-- The instance that State.reset takes. DESIGN CHOICE (log 2): the parameters are OPEN, so a claim about the reset state is made
for every configuration, over State.resetOf. Variant A; `C_EN` = 0x02 and the status set on a CPU write, as the vectors take them. -/
def Config.build : Config :=
  { variant := .A, cEnBit := 0, statusSetOnCpuWrite := true, addr0 := 0, addr1 := 1, addr2 := 2, addr3 := 3 }

/-- `PROG_MAX`, the most command words a program has (R7, R23). -/
def Config.progMax : Nat := 256

/-- FREE VALUE (log 3): which agent the scheduler lets step, at its `n`-th free choice (R20, R67). Nothing constrains it. -/
opaque Config.freeTurn : Nat → Agent

end Sys2Proof
end

