-- ==== Sys2Proof/WellFormed.lean ====
section
/-!
DEFINITION. The checks a value of the model's types may still fail: unused fields (R81), an operation in the wrong agent's list
(R84), a program that is too long (R23), addresses that collide (R60).
-/

namespace Sys2Proof

/-- Every field the format does not use is zero (R81). -/
def Format.unusedZero (fmt : Format) (f : Fields) : Bool :=
  match fmt with
  | .n => f.r == 0 && f.imm == 0
  | .r => f.imm == 0
  | .ri => true
  | .i => f.r == 0

/-- The operation may stand in the agent's own list: the CPU program or the probe schedule (R84, WrongAgent). -/
def Instr.wellFormedFor (i : Instr) (a : Agent) : Bool :=
  i.agent == a

/-- A CPU program has at most `PROG_MAX` words (R23). -/
def programWf (prog : List CmdWord) : Bool :=
  prog.length ≤ Config.progMax

/-- The four addresses are pairwise distinct (R60). -/
def Config.wf (c : Config) : Bool :=
  c.addr0 != c.addr1 && c.addr0 != c.addr2 && c.addr0 != c.addr3 &&
    c.addr1 != c.addr2 && c.addr1 != c.addr3 && c.addr2 != c.addr3

end Sys2Proof
end

