-- ==== Sys2Proof/Decode.lean ====
section
/-!
DEFINITION. Command words: fields (R80), the opcode map as a list of rows (R83), a total decoder that refuses by name (R84), and the
encoder. The pseudo-operations expand to plain words (R94, R95).
-/

namespace Sys2Proof

/-- Why a word is no operation for an agent; the constructors stand in the order they are checked (R84, R226). -/
inductive DecodeError where
  | reservedOpcode
  | nonzeroUnusedField
  | wrongAgent
deriving DecidableEq, Repr

/-- The index as the unsigned 2-bit number of field `r` (R82). -/
def RegIx.bits : RegIx → BitVec 2
  | .r0 => 0
  | .r1 => 1
  | .r2 => 2
  | .r3 => 3

/-- The register a 2-bit field names (R82). -/
def RegIx.ofBits (b : BitVec 2) : RegIx :=
  if b = 0 then .r0 else if b = 1 then .r1 else if b = 2 then .r2 else .r3

/-- The fields of a word (R80). -/
def fieldsOf (w : CmdWord) : Fields :=
  { op := w.extractLsb' 10 6, r := w.extractLsb' 8 2, imm := w.extractLsb' 0 8 }

/-- `(op << 10) | (r << 8) | imm` (R80). -/
def wordOf (f : Fields) : CmdWord :=
  f.op.setWidth 16 <<< 10 ||| f.r.setWidth 16 <<< 8 ||| f.imm.setWidth 16

/-- The bits a format's rows compare (R83, column "mask"). -/
def Format.mask : Format → CmdWord
  | .n => 0xFFFF
  | .r => 0xFCFF
  | .ri => 0xFC00
  | .i => 0xFF00

/-- One row of the opcode map: its mnemonic, its code, its format, and the operation its operand fields make (R83). -/
structure OpRow where
  name : String
  op : BitVec 6
  fmt : Format
  make : RegIx → Byte → Instr

/-- A row's word with every operand field zero (R83, column "match"). -/
def OpRow.pattern (k : OpRow) : CmdWord :=
  wordOf { op := k.op, r := 0, imm := 0 }

/-- `(w & mask) == match` (R83). -/
def OpRow.selects (k : OpRow) (w : CmdWord) : Bool :=
  w &&& k.fmt.mask == k.pattern

/-- The opcode map, CPU agent (R83). -/
def cpuRows : List OpRow :=
  [ ⟨"CRD", 0x01, .r, fun r _ => .crd r⟩, ⟨"CWR", 0x02, .ri, .cwr⟩, ⟨"CBS", 0x03, .ri, .cbs⟩, ⟨"CBC", 0x04, .ri, .cbc⟩,
    ⟨"LENRX", 0x08, .n, fun _ _ => .lenrx⟩, ⟨"LENTX", 0x09, .n, fun _ _ => .lentx⟩, ⟨"LFULRX", 0x0A, .n, fun _ _ => .lfulrx⟩,
    ⟨"LBSYTX", 0x0B, .n, fun _ _ => .lbsytx⟩, ⟨"LSETTX", 0x0C, .n, fun _ _ => .lsettx⟩, ⟨"LCLRRX", 0x0D, .n, fun _ _ => .lclrrx⟩,
    ⟨"LRDRX", 0x0E, .n, fun _ _ => .lrdrx⟩, ⟨"LWRTX", 0x0F, .i, fun _ b => .lwrtx b⟩,
    ⟨"ENRX", 0x10, .n, fun _ _ => .enrx⟩, ⟨"ENTX", 0x11, .n, fun _ _ => .entx⟩, ⟨"POLL", 0x12, .n, fun _ _ => .poll⟩,
    ⟨"RECV", 0x13, .n, fun _ _ => .recv⟩, ⟨"XMIT", 0x14, .i, fun _ b => .xmit b⟩, ⟨"XMITR", 0x15, .n, fun _ _ => .xmitr⟩,
    ⟨"JMP", 0x18, .i, fun _ t => .jmp t⟩, ⟨"JZ", 0x19, .i, fun _ t => .jz t⟩, ⟨"JNZ", 0x1A, .i, fun _ t => .jnz t⟩,
    ⟨"HALT", 0x1F, .n, fun _ _ => .halt⟩ ]

/-- The opcode map, probe agent (R83). -/
def probeRows : List OpRow :=
  [ ⟨"PRD", 0x20, .r, fun r _ => .prd r⟩, ⟨"PWR", 0x21, .ri, .pwr⟩,
    ⟨"ATTRX", 0x28, .n, fun _ _ => .attrx⟩, ⟨"DETRX", 0x29, .n, fun _ _ => .detrx⟩, ⟨"ATTTX", 0x2A, .n, fun _ _ => .atttx⟩,
    ⟨"DETTX", 0x2B, .n, fun _ _ => .dettx⟩, ⟨"PUTRX", 0x2C, .i, fun _ b => .putrx b⟩, ⟨"TAKETX", 0x2D, .n, fun _ _ => .taketx⟩,
    ⟨"PCLRST", 0x2E, .n, fun _ _ => .pclrst⟩ ]

/-- The whole opcode map (R83). -/
def opTable : List OpRow :=
  cpuRows ++ probeRows

/-- The operation a word encodes, for either agent: `ReservedOpcode` before `NonzeroUnusedField` (R84). -/
def decode (w : CmdWord) : Except DecodeError Instr :=
  match opTable.find? (fun k => k.op == (fieldsOf w).op) with
  | none => .error .reservedOpcode
  | some k =>
    if k.fmt.unusedZero (fieldsOf w) then
      .ok (k.make (RegIx.ofBits (fieldsOf w).r) (fieldsOf w).imm)
    else .error .nonzeroUnusedField

/-- Decoding in one agent's list: `WrongAgent` is the last reason checked (R84). -/
def decodeFor (a : Agent) (w : CmdWord) : Except DecodeError Instr :=
  match decode w with
  | .error e => .error e
  | .ok i => if i.wellFormedFor a then .ok i else .error .wrongAgent

/-- The fields of an operation's word, from the opcode map (R83). -/
def Instr.fields : Instr → Fields
  | .crd r => ⟨0x01, r.bits, 0⟩
  | .cwr r imm => ⟨0x02, r.bits, imm⟩
  | .cbs r m => ⟨0x03, r.bits, m⟩
  | .cbc r m => ⟨0x04, r.bits, m⟩
  | .lenrx => ⟨0x08, 0, 0⟩
  | .lentx => ⟨0x09, 0, 0⟩
  | .lfulrx => ⟨0x0A, 0, 0⟩
  | .lbsytx => ⟨0x0B, 0, 0⟩
  | .lsettx => ⟨0x0C, 0, 0⟩
  | .lclrrx => ⟨0x0D, 0, 0⟩
  | .lrdrx => ⟨0x0E, 0, 0⟩
  | .lwrtx b => ⟨0x0F, 0, b⟩
  | .enrx => ⟨0x10, 0, 0⟩
  | .entx => ⟨0x11, 0, 0⟩
  | .poll => ⟨0x12, 0, 0⟩
  | .recv => ⟨0x13, 0, 0⟩
  | .xmit b => ⟨0x14, 0, b⟩
  | .xmitr => ⟨0x15, 0, 0⟩
  | .jmp t => ⟨0x18, 0, t⟩
  | .jz t => ⟨0x19, 0, t⟩
  | .jnz t => ⟨0x1A, 0, t⟩
  | .halt => ⟨0x1F, 0, 0⟩
  | .prd r => ⟨0x20, r.bits, 0⟩
  | .pwr r imm => ⟨0x21, r.bits, imm⟩
  | .attrx => ⟨0x28, 0, 0⟩
  | .detrx => ⟨0x29, 0, 0⟩
  | .atttx => ⟨0x2A, 0, 0⟩
  | .dettx => ⟨0x2B, 0, 0⟩
  | .putrx b => ⟨0x2C, 0, b⟩
  | .taketx => ⟨0x2D, 0, 0⟩
  | .pclrst => ⟨0x2E, 0, 0⟩

/-- The command word of an operation. -/
def encode (i : Instr) : CmdWord :=
  wordOf i.fields

/-- The operation the decoder reads from the low `nbits` bits of `w`: one command word, whose bits above `nbits` are zero. -/
def decodeTableWord (nbits w : Nat) : Option Instr :=
  if nbits ≤ 16 ∧ w < 2 ^ nbits then
    match decode (BitVec.ofNat 16 w) with
    | .ok i => some i
    | .error _ => none
  else none

/-- The words of a pseudo-operation whose first word stands at index `at_` (R94, R95): plain words, with no new meaning. -/
def Pseudo.expand (at_ : Byte) : Pseudo → List Instr
  | .waitrx => [.enrx, .jz at_]
  | .tryrecv skip => [.poll, .jz skip, .recv]
  | .waitbyte => [.poll, .jz at_]
  | .getc => [.recv]
  | .putc b => [.xmit b]
  | .putcr => [.xmitr]

end Sys2Proof
end

