-- ==== Sys2Proof/Machine/State.lean ====
section
/-!
DEFINITION. The whole state as plain data: the register file of the block, the state of the two agents, the observation logs, the
instance's configuration, and the interleaving still to be followed. Faults, refusals, and the state right after power-on reset.
-/

namespace Sys2Proof.Machine

/-- What a register or a latch holds: a byte, or `⊥`, which the spec itself gives as the content since reset of whatever nothing has
written yet (R10, R21, R33). -/
inductive Content where
  /-- `⊥`. -/
  | unwritten
  | byte (b : Byte)
deriving DecidableEq, Repr

/-- The phases of the CPU operations that have more than one: `RECV` V0 to V2 (R144), `XMIT` T0, TS, T1, T2 (R146, R147). -/
inductive CpuPhase where
  | v0
  | v1
  | v2
  | t0
  | ts
  | t1
  | t2
deriving DecidableEq, Repr

/-- The phases of the probe's transfer actions (R176 to R178). -/
inductive ProbePhase where
  | p0
  | p1
  | p2
deriving DecidableEq, Repr

/-- An agent's operation in progress: the decoded command word, its next phase, and the byte latched in an earlier phase (R24). -/
inductive Progress (φ : Type) where
  | idle
  | busy (op : Instr) (phase : φ) (lat : Content)
deriving DecidableEq, Repr

/-- The kinds of register access (R40). -/
inductive EventKind where
  | rd
  | wr
  | rmw
deriving DecidableEq, Repr

/-- One register access: `value` is the byte read, written, or left by a read-modify-write (R40). -/
structure Event where
  agent : Agent
  kind : EventKind
  reg : RegIx
  value : Byte
deriving DecidableEq, Repr

/-- The four registers (R26). Registers 0 and 2 hold flags or the message status, which reset to 0x00 and so are never `⊥` (R35,
R41); the payloads 1 and 3 reset to `⊥`. -/
structure RegFile where
  /-- A, B `RXF`; C `FLAGS`. -/
  r0 : Byte
  /-- `RXD`. -/
  r1 : Content
  /-- A, B `TXF`; C `MSGSTATUS`. -/
  r2 : Byte
  /-- A, B `TXD`; C `MSG`. -/
  r3 : Content
deriving DecidableEq, Repr

/-- What a fault records (R224): the agent, the operation's command word (none when the fetch itself failed), the `pc` for the CPU
agent, and the register index where one applies. -/
structure FaultRecord where
  agent : Agent
  word : Option CmdWord
  pc : Option Nat
  reg : Option RegIx
deriving DecidableEq, Repr

/-- The model's faults (R224); the block itself raises none (R220). Each ends the run with no other change of state. -/
inductive Fault where
  /-- Raised by `CRD`, `CBS`, `CBC`, `LRDRX`, `RECV` V1, `PRD` and `TAKETX` P1 on a register that is `⊥` (R33). Safe. -/
  | unwrittenRead (r : FaultRecord)
  /-- Raised by `JZ`, `JNZ` and `XMITR` when `res` is `⊥` (R21). Safe. -/
  | resUnwritten (r : FaultRecord)
  /-- Raised by the CPU's fetch when `pc` is not below the program's length (R23, R204). Safe. -/
  | pcOutOfProgram (r : FaultRecord)
deriving DecidableEq, Repr

/-- The model's refusals (R225). Each ends the run. -/
inductive Refusal where
  /-- Raised by an arm of exec whose instruction has no meaning yet; no arm is left so. Safe. -/
  | notModelled (mnemonic : String)
  /-- Raised by decoding: `op` is unassigned (R84). Safe. -/
  | reservedOpcode
  /-- Raised by decoding: a field that must be zero is not (R81, R84). Safe. -/
  | nonzeroUnusedField
  /-- Raised by decoding: a probe word in the CPU program, or the reverse (R84). Safe. -/
  | wrongAgent
  /-- Raised by `LSETTX` in C, `PCLRST` in A and B, and `TAKETX` in C when the status is not set by a CPU write (R85, R178). Safe. -/
  | notInVariant
  /-- Raised by `CWR`, `CBS`, `CBC` of `MSGSTATUS` in C (R101 to R103). Safe. -/
  | readOnlyWrite
  /-- Raised by `CRD`, `CBS`, `CBC` of `MSG` in C (R100, R102, R103). Safe. -/
  | unmodelledRead
  /-- Raised by an access to the block that is not one byte wide (R69); no instruction makes one. Safe. -/
  | wideAccess
  /-- Raised by an instruction fetch from the block (R75); no step makes one. Safe. -/
  | fetchFromBlock
  /-- Raised by an access at an address that is none of the block's, which R62 gives no meaning; no instruction makes one. Safe. -/
  | outsideBlock
deriving DecidableEq, Repr

/-- The machine's state. -/
structure State where
  /-- The instance's configuration, which no step writes (R3, R7; log 2). -/
  cfg : Config
  /-- The register file, the only state the two agents share (R26, R229). -/
  regs : RegFile
  /-- The CPU agent's result latch (R21). -/
  res : Content
  /-- The probe agent's result latch (R22). -/
  pres : Content
  /-- The CPU receive log (R22). -/
  clog : List Byte
  /-- The probe receive log (R22). -/
  plog : List Byte
  /-- The CPU program, index 0 first (R23, R88). -/
  prog : List CmdWord
  /-- The program counter, an index that does not wrap (R23; log 6). -/
  pc : Nat
  /-- The CPU agent has executed `HALT` (R23). -/
  halted : Bool
  /-- The CPU agent's operation in progress (R24). -/
  cur : Progress CpuPhase
  /-- The probe agent's action in progress (R24). -/
  pcur : Progress ProbePhase
  /-- The probe schedule: the action words still to be taken (R88; log 5). DESIGN CHOICE: a finite list in a state; State.feed adds to it
  in a run, since R191 and R270 set no bound on the probe's actions (log 16). -/
  psched : List CmdWord
  /-- The event history, oldest first; appended to and never read (R40). -/
  history : List Event
  /-- The interleaving still to be followed: which agent takes each step (R67, R88; log 3). -/
  turns : List Agent
  /-- How many scheduler choices were free so far (the model's own; log 3). -/
  turnNo : Nat
deriving DecidableEq, Repr

/-- The register file after power-on reset: all flags false, payloads `⊥` (R41, R250). -/
def RegFile.reset : RegFile :=
  { r0 := 0x00, r1 := .unwritten, r2 := 0x00, r3 := .unwritten }

/-- The state after power-on reset of an instance with configuration `cfg` (R41, R250, R251); no program is loaded yet (log 5). -/
def State.resetOf (cfg : Config) : State :=
  { cfg := cfg
    regs := RegFile.reset
    res := .unwritten
    pres := .unwritten
    clog := []
    plog := []
    prog := []
    pc := 0
    halted := false
    cur := .idle
    pcur := .idle
    psched := []
    history := []
    turns := []
    turnNo := 0 }

/-- The state right after reset of the instance Config.build (log 2). -/
def State.reset : State :=
  State.resetOf Config.build

end Sys2Proof.Machine
end

