-- ==== Sys2Proof/Machine/Flags.lean ====
section
/-!
DEFINITION. Every flag computation: the masks of each variant, the tests of the layout primitives and the channel operations, and the
abstract state of a channel.
-/

namespace Sys2Proof.Machine

/-- `FULL` (A, B) and `C_RXFULL` (C): bit 0x01 (R7, R27, R28, R29). -/
def fullMask : Byte := 0x01

/-- `EN` (A, B): bit 0x02 (R27, R28). -/
def enMaskAB : Byte := 0x02

/-- `C_EN`: one bit other than 0x01 (R7, R29). -/
def cEnMask (c : Config) : Byte := (0x01 : Byte) <<< (c.cEnBit.val + 1)

/-- The enable mask of the variant (R27 to R29). -/
def enMask (c : Config) : Byte :=
  match c.variant with
  | .A | .B => enMaskAB
  | .C => cEnMask c

/-- `C_STATUS_SET_VALUE` (R7, R34). -/
def statusSetValue : Byte := 0x01

/-- Some bit of the mask is set. -/
def anyBit (m v : Byte) : Bool := v &&& m != 0

/-- `enRX` of the value read from register 0 (42_channel_ops.md); in C it is the TX test too (R30). -/
def enTest (c : Config) (v : Byte) : Bool := anyBit (enMask c) v

/-- The raw RX-full bit of the value read from register 0 (R122). -/
def fullTest (v : Byte) : Bool := anyBit fullMask v

/-- `pollRX` of the value read from register 0 (R142): the full bit in A and C, whole-byte equality in B. -/
def pollTest (c : Config) (v : Byte) : Bool :=
  match c.variant with
  | .A | .C => fullTest v
  | .B => v == (enMaskAB ||| fullMask)

/-- The TX slot is occupied, of the value read from register 2 (R123): `TXF.FULL` in A and B, a nonzero status byte in C (C5). -/
def busyTest (c : Config) (v : Byte) : Bool :=
  match c.variant with
  | .A | .B => fullTest v
  | .C => v != 0

/-- The register that holds the TX enable bit (R121, R141): `TXF` in A and B, `FLAGS` in C. -/
def txEnReg (c : Config) : RegIx :=
  match c.variant with
  | .A | .B => .r2
  | .C => .r0

/-- A Boolean result: 0x00 for false and 0x01 for true (R21). -/
def boolByte (b : Bool) : Byte := if b then 0x01 else 0x00

/-- The abstract state of a channel (R35). -/
inductive ChanState where
  | disabled
  | enabledEmpty
  | enabledFull
deriving DecidableEq, Repr

/-- `en(d)` (R35). -/
def chanEn (c : Config) (g : RegFile) : Dir → Bool
  | .rx => enTest c g.r0
  | .tx =>
    match c.variant with
    | .A | .B => enTest c g.r2
    | .C => enTest c g.r0

/-- `full(d)` (R35). -/
def chanFull (c : Config) (g : RegFile) : Dir → Bool
  | .rx => fullTest g.r0
  | .tx => busyTest c g.r2

/-- `state(d)` (R35). -/
def chanState (c : Config) (g : RegFile) (d : Dir) : ChanState :=
  if chanEn c g d then
    if chanFull c g d then .enabledFull else .enabledEmpty
  else .disabled

end Sys2Proof.Machine
end

