-- ==== Sys2Proof/Machine/Operands.lean ====
section
/-!
DEFINITION. The operand forms: a register index on the CPU port with what the port refuses of it in each variant (R85, R100 to R103,
R228), an immediate used as a mask, and a jump target.
-/

namespace Sys2Proof.Machine

/-- A CPU write of `MSGSTATUS` is refused: it is read-only to the CPU port (R32, R101). -/
def cpuWriteRefusal (c : Config) (r : RegIx) : Option Refusal :=
  if c.variant = .C ∧ r = .r2 then some .readOnlyWrite else none

/-- A CPU read of `MSG` is refused: the source gives it no meaning (R32, R100). -/
def cpuReadRefusal (c : Config) (r : RegIx) : Option Refusal :=
  if c.variant = .C ∧ r = .r3 then some .unmodelledRead else none

/-- A CPU bit-set or bit-clear is a read and a write: the write is checked first (R102, R103). -/
def cpuModifyRefusal (c : Config) (r : RegIx) : Option Refusal :=
  match cpuWriteRefusal c r with
  | some q => some q
  | none => cpuReadRefusal c r

/-- The bits of `m` set in `v` (R65, R102). -/
def setBits (m v : Byte) : Byte := v ||| m

/-- The bits of `m` cleared in `v` (R65, R103). -/
def clearBits (m v : Byte) : Byte := v &&& ~~~m

/-- `zext_8(imm)`: an absolute program index (R82, R200). -/
def jumpTarget (t : Byte) : Nat := t.toNat

end Sys2Proof.Machine
end

