-- ==== Sys2Proof/Machine/Ops.lean ====
section
/-!
DEFINITION. The shared operations over registers, latches and logs (R10, R64 to R68): one register access each, with its event. The
block takes no exception (R220, R222), so there is no exception entry and no return from one: the outcomes that stop a run are the
faults and refusals of R224 and R225.
-/

namespace Sys2Proof.Machine

/-- The outcome of a step of this machine. -/
abbrev Out := Host.Outcome State Fault Refusal

/-- The content of a register (R26). -/
def RegFile.get (g : RegFile) : RegIx → Content
  | .r0 => .byte g.r0
  | .r1 => g.r1
  | .r2 => .byte g.r2
  | .r3 => g.r3

/-- A register's whole content replaced by a byte (R64). -/
def RegFile.set (g : RegFile) (i : RegIx) (v : Byte) : RegFile :=
  match i with
  | .r0 => { g with r0 := v }
  | .r1 => { g with r1 := .byte v }
  | .r2 => { g with r2 := v }
  | .r3 => { g with r3 := .byte v }

/-- The event appended to the history (R40). -/
def State.record (s : State) (ag : Agent) (k : EventKind) (i : RegIx) (v : Byte) : State :=
  { s with history := s.history ++ [⟨ag, k, i, v⟩] }

/-- A byte stored in a register (R64). -/
def State.store (s : State) (i : RegIx) (v : Byte) : State :=
  { s with regs := s.regs.set i v }

/-- `res <- v` (R21). -/
def State.setRes (s : State) (v : Byte) : State :=
  { s with res := .byte v }

/-- `pres <- v` (R22). -/
def State.setPres (s : State) (v : Byte) : State :=
  { s with pres := .byte v }

/-- `clog <- clog ++ [v]` (R22). -/
def State.logCpu (s : State) (v : Byte) : State :=
  { s with clog := s.clog ++ [v] }

/-- `plog <- plog ++ [v]` (R22). -/
def State.logProbe (s : State) (v : Byte) : State :=
  { s with plog := s.plog ++ [v] }

/-- `done` for the CPU agent: `cur <- idle` and `pc <- pc + 1` (R10, R204). -/
def State.cpuDone (s : State) : State :=
  { s with cur := .idle, pc := s.pc + 1 }

/-- The CPU agent's operation goes on at a phase, its own phase again when it spins: `pc` stays (R10, R204). -/
def State.cpuGoto (s : State) (op : Instr) (ph : CpuPhase) (lat : Content) : State :=
  { s with cur := .busy op ph lat }

/-- A taken jump: `pc <- t`, `cur <- idle` (R200). -/
def State.jumpTo (s : State) (t : Nat) : State :=
  { s with cur := .idle, pc := t }

/-- `done` for the probe agent: `pcur <- idle` (R24). -/
def State.probeDone (s : State) : State :=
  { s with pcur := .idle }

/-- The probe agent's action goes on at a phase (R24). -/
def State.probeGoto (s : State) (op : Instr) (ph : ProbePhase) (lat : Content) : State :=
  { s with pcur := .busy op ph lat }

/-- The phase the CPU agent's operation in progress is at, T0 for a new one (R204). -/
def State.xmitPhase (s : State) : CpuPhase :=
  match s.cur with
  | .idle => .t0
  | .busy _ ph _ => ph

/-- What a fault of operation `op` records (R224): the CPU agent's has its `pc`. -/
def faultRecord (ag : Agent) (op : Instr) (i : Option RegIx) (s : State) : FaultRecord :=
  { agent := ag
    word := some (encode op)
    pc := match ag with
      | .cpu => some s.pc
      | .probe => none
    reg := i }

/-- A refusal if there is one, else the rest of the operation (R226). -/
def refuseOr (q : Option Refusal) (k : Out) : Out :=
  match q with
  | some r => .refused r
  | none => k

/-- `CpuRead(i)` and `ProbeRead(i)`: one atomic transition with one event and no side effect; `⊥` faults (R10, R33, R64, R68). -/
def portRead (ag : Agent) (op : Instr) (i : RegIx) (s : State) (k : Byte → State → Out) : Out :=
  match s.regs.get i with
  | .unwritten => .fault (.unwrittenRead (faultRecord ag op (some i) s))
  | .byte v => k v (s.record ag .rd i v)

/-- The message-status side effect of a CPU write of `MSG` in C (R34), in the same transition and with no event of its own. -/
def State.statusEffect (s : State) (i : RegIx) : State :=
  if s.cfg.variant = .C ∧ i = .r3 ∧ s.cfg.statusSetOnCpuWrite = true then
    { s with regs := { s.regs with r2 := statusSetValue } }
  else s

/-- `CpuWrite(i, v)`: the store, its event, and the side effect of R34 (R64, R68). -/
def State.cpuWrite (s : State) (i : RegIx) (v : Byte) : State :=
  ((s.store i v).record .cpu .wr i v).statusEffect i

/-- `ProbeWrite(i, v)`: the store and its event, with no side effect (R64, R171). -/
def State.probeWrite (s : State) (i : RegIx) (v : Byte) : State :=
  (s.store i v).record .probe .wr i v

/-- An atomic read-modify-write on the CPU port: one transition, one event with the byte left; `⊥` faults (R33, R65). -/
def cpuModify (op : Instr) (i : RegIx) (f : Byte → Byte) (s : State) (k : State → Out) : Out :=
  match s.regs.get i with
  | .unwritten => .fault (.unwrittenRead (faultRecord .cpu op (some i) s))
  | .byte v => k ((s.store i (f v)).record .cpu .rmw i (f v))

/-- `CpuBitSet(i, m)` (R65). -/
def cpuBitSet (op : Instr) (i : RegIx) (m : Byte) (s : State) (k : State → Out) : Out :=
  cpuModify op i (setBits m) s k

/-- `CpuBitClear(i, m)` (R65). -/
def cpuBitClear (op : Instr) (i : RegIx) (m : Byte) (s : State) (k : State → Out) : Out :=
  cpuModify op i (clearBits m) s k

/-- Reading `res`, which faults while it is `⊥` (R21). -/
def readRes (op : Instr) (s : State) (k : Byte → Out) : Out :=
  match s.res with
  | .unwritten => .fault (.resUnwritten (faultRecord .cpu op none s))
  | .byte v => k v

/-- A one-phase CPU test of a register: one read, `res` as the Boolean result, `done` (R21, R120 to R123, R140 to R142). -/
def cpuTest (op : Instr) (i : RegIx) (test : Byte → Bool) (s : State) : Out :=
  portRead .cpu op i s fun v t => .next (t.setRes (boolByte (test v))).cpuDone

/-- A one-phase CPU read of a register into `res` (R100, R126). -/
def cpuLoad (op : Instr) (i : RegIx) (s : State) : Out :=
  portRead .cpu op i s fun v t => .next (t.setRes v).cpuDone

/-- A one-phase probe write of a register (R171 to R175, R179). -/
def probeStore (i : RegIx) (v : Byte) (s : State) : Out :=
  .next (s.probeWrite i v).probeDone

end Sys2Proof.Machine
end

