-- ==== Sys2Proof/Machine/Channel.lean ====
section
/-!
DEFINITION. Channel operations (42_channel_ops.md). `RECV`, `XMIT` and `XMITR` perform the phase that `cur` records, the first phase
when there is none; each phase is one register access, and the probe may step between any two.
-/

namespace Sys2Proof.Machine

/-- `ENRX` (R140). -/
def execEnrx (s : State) : Out :=
  cpuTest .enrx .r0 (enTest s.cfg) s

/-- `ENTX` (R141). -/
def execEntx (s : State) : Out :=
  cpuTest .entx (txEnReg s.cfg) (enTest s.cfg) s

/-- `POLL` (R142). -/
def execPoll (s : State) : Out :=
  cpuTest .poll .r0 (pollTest s.cfg) s

/-- `RECV` V0: the poll read, fresh each iteration (R144). -/
def recvV0 (s : State) : Out :=
  portRead .cpu .recv .r0 s fun v t =>
    .next (if pollTest s.cfg v then t.cpuGoto .recv .v1 .unwritten else t.cpuGoto .recv .v0 .unwritten)

/-- `RECV` V1: the payload read (R144). -/
def recvV1 (s : State) : Out :=
  portRead .cpu .recv .r1 s fun v t => .next (t.cpuGoto .recv .v2 (.byte v))

/-- `RECV` V2: the atomic clear of RX full; the latched byte is the result (R144). -/
def recvV2 (lat : Byte) (s : State) : Out :=
  cpuBitClear .recv .r0 fullMask s fun t => .next ((t.setRes lat).logCpu lat).cpuDone

/-- `RECV` (R143, R144). A record in `cur` that is none of its phases does not occur in a run; it starts at V0 (log 7). -/
def execRecv (s : State) : Out :=
  match s.cur with
  | .busy _ .v1 _ => recvV1 s
  | .busy _ .v2 (.byte lat) => recvV2 lat s
  | _ => recvV0 s

/-- `XMIT` T0, A and B: one read of `TXF` serves the enable test and then the full test (R146). -/
def xmitT0AB (op : Instr) (lat : Content) (s : State) : Out :=
  portRead .cpu op .r2 s fun v t =>
    .next (if enTest s.cfg v = false then t.cpuDone
      else if fullTest v then t.cpuGoto op .t0 lat
      else t.cpuGoto op .t1 lat)

/-- `XMIT` T0, C: the read of `FLAGS` and the enable test (R147). -/
def xmitT0C (op : Instr) (lat : Content) (s : State) : Out :=
  portRead .cpu op .r0 s fun v t =>
    .next (if enTest s.cfg v = false then t.cpuDone else t.cpuGoto op .ts lat)

/-- `XMIT` TS, C: the status read; busy goes back to T0, so that enable is checked again (R147). -/
def xmitTS (op : Instr) (lat : Content) (s : State) : Out :=
  portRead .cpu op .r2 s fun v t =>
    .next (if v = 0 then t.cpuGoto op .t1 lat else t.cpuGoto op .t0 lat)

/-- `XMIT` T1, A and B: the payload write (R146). -/
def xmitT1AB (op : Instr) (lat : Content) (b : Byte) (s : State) : Out :=
  .next ((s.cpuWrite .r3 b).cpuGoto op .t2 lat)

/-- `XMIT` T1, C: the message write, with its side effect, ends the operation (R147). -/
def xmitT1C (b : Byte) (s : State) : Out :=
  .next (s.cpuWrite .r3 b).cpuDone

/-- `XMIT` T2, A and B: the atomic set of `TXF.FULL` (R146). -/
def xmitT2 (op : Instr) (s : State) : Out :=
  cpuBitSet op .r2 fullMask s fun t => .next t.cpuDone

/-- A phase of sending the byte `b`, A and B (R146); `lat` is what the operation keeps latched. A phase A and B do not have does not
occur in a run; it is taken as T0 (log 7). -/
def xmitAtAB (op : Instr) (lat : Content) (b : Byte) (ph : CpuPhase) (s : State) : Out :=
  match ph with
  | .t1 => xmitT1AB op lat b s
  | .t2 => xmitT2 op s
  | _ => xmitT0AB op lat s

/-- A phase of sending the byte `b`, C (R147), in the same way. -/
def xmitAtC (op : Instr) (lat : Content) (b : Byte) (ph : CpuPhase) (s : State) : Out :=
  match ph with
  | .ts => xmitTS op lat s
  | .t1 => xmitT1C b s
  | _ => xmitT0C op lat s

/-- A phase of sending the byte `b` (R145). -/
def xmitAt (op : Instr) (lat : Content) (b : Byte) (ph : CpuPhase) (s : State) : Out :=
  match s.cfg.variant with
  | .A | .B => xmitAtAB op lat b ph s
  | .C => xmitAtC op lat b ph s

/-- `XMIT #b` (R145 to R147). -/
def execXmit (b : Byte) (s : State) : Out :=
  xmitAt (.xmit b) .unwritten b s.xmitPhase s

/-- `XMITR` (R148): `res` is latched at the first phase and kept for the whole operation. -/
def execXmitr (s : State) : Out :=
  match s.cur with
  | .busy _ ph (.byte b) => xmitAt .xmitr (.byte b) b ph s
  | _ => readRes .xmitr s fun b => xmitAt .xmitr (.byte b) b .t0 s

end Sys2Proof.Machine
end

