-- ==== Sys2Proof/Machine/Control.lean ====
section
/-!
DEFINITION. Harness control flow (44_harness_control.md): one phase each, no register access.
-/

namespace Sys2Proof.Machine

/-- `JMP #t` (R200). -/
def execJmp (t : Byte) (s : State) : Out :=
  .next (s.jumpTo (jumpTarget t))

/-- `JZ #t` (R201). -/
def execJz (t : Byte) (s : State) : Out :=
  readRes (.jz t) s fun v => .next (if v = 0 then s.jumpTo (jumpTarget t) else s.cpuDone)

/-- `JNZ #t` (R202). -/
def execJnz (t : Byte) (s : State) : Out :=
  readRes (.jnz t) s fun v => .next (if v = 0 then s.cpuDone else s.jumpTo (jumpTarget t))

/-- `HALT` (R203): `pc` stays at its index. -/
def execHalt (s : State) : Out :=
  .next { s with halted := true, cur := .idle }

end Sys2Proof.Machine
end

