-- ==== Sys2Proof/Machine/CpuPort.lean ====
section
/-!
DEFINITION. CPU-port register accesses (40_cpu_port.md): `CRD`, `CWR`, `CBS`, `CBC`, one phase each.
-/

namespace Sys2Proof.Machine

/-- `CRD r` (R100). -/
def execCrd (r : RegIx) (s : State) : Out :=
  refuseOr (cpuReadRefusal s.cfg r) (cpuLoad (.crd r) r s)

/-- `CWR r, #imm` (R101). -/
def execCwr (r : RegIx) (imm : Byte) (s : State) : Out :=
  refuseOr (cpuWriteRefusal s.cfg r) (.next (s.cpuWrite r imm).cpuDone)

/-- `CBS r, #m` (R102). -/
def execCbs (r : RegIx) (m : Byte) (s : State) : Out :=
  refuseOr (cpuModifyRefusal s.cfg r) (cpuBitSet (.cbs r m) r m s fun t => .next t.cpuDone)

/-- `CBC r, #m` (R103). -/
def execCbc (r : RegIx) (m : Byte) (s : State) : Out :=
  refuseOr (cpuModifyRefusal s.cfg r) (cpuBitClear (.cbc r m) r m s fun t => .next t.cpuDone)

end Sys2Proof.Machine
end

