-- ==== Sys2Proof/Machine/Layout.lean ====
section
/-!
DEFINITION. Register-layout primitives (41_layout_primitives.md), one phase and one register access each.
-/

namespace Sys2Proof.Machine

/-- `LENRX` (R120). -/
def execLenrx (s : State) : Out :=
  cpuTest .lenrx .r0 (enTest s.cfg) s

/-- `LENTX` (R121). -/
def execLentx (s : State) : Out :=
  cpuTest .lentx (txEnReg s.cfg) (enTest s.cfg) s

/-- `LFULRX` (R122): the bit test in every variant. -/
def execLfulrx (s : State) : Out :=
  cpuTest .lfulrx .r0 fullTest s

/-- `LBSYTX` (R123). -/
def execLbsytx (s : State) : Out :=
  cpuTest .lbsytx .r2 (busyTest s.cfg) s

/-- `LSETTX` (R124): refused in C. -/
def execLsettx (s : State) : Out :=
  match s.cfg.variant with
  | .A | .B => cpuBitSet .lsettx .r2 fullMask s fun t => .next t.cpuDone
  | .C => .refused .notInVariant

/-- `LCLRRX` (R125). -/
def execLclrrx (s : State) : Out :=
  cpuBitClear .lclrrx .r0 fullMask s fun t => .next t.cpuDone

/-- `LRDRX` (R126). -/
def execLrdrx (s : State) : Out :=
  cpuLoad .lrdrx .r1 s

/-- `LWRTX #b` (R127). -/
def execLwrtx (b : Byte) (s : State) : Out :=
  .next (s.cpuWrite .r3 b).cpuDone

end Sys2Proof.Machine
end

