-- ==== Sys2Proof/Machine/Probe.lean ====
section
/-!
DEFINITION. The probe port and the probe's protocol actions (43_probe_ops.md). `PUTRX` and `TAKETX` perform the phase that `pcur`
records; every other action is one phase.
-/

namespace Sys2Proof.Machine

/-- `PRD r` (R170). -/
def execPrd (r : RegIx) (s : State) : Out :=
  portRead .probe (.prd r) r s fun v t => .next (t.setPres v).probeDone

/-- `PWR r, #imm` (R171). -/
def execPwr (r : RegIx) (imm : Byte) (s : State) : Out :=
  probeStore r imm s

/-- `ATTRX` (R172): the whole register is written, so a stale full bit is discarded. -/
def execAttrx (s : State) : Out :=
  probeStore .r0 (enMask s.cfg) s

/-- `DETRX` (R173). -/
def execDetrx (s : State) : Out :=
  probeStore .r0 0x00 s

/-- `ATTTX` (R174). -/
def execAtttx (s : State) : Out :=
  probeStore (txEnReg s.cfg) (enMask s.cfg) s

/-- `DETTX` (R175). -/
def execDettx (s : State) : Out :=
  probeStore (txEnReg s.cfg) 0x00 s

/-- `PUTRX` P0: not attached ends it, the previous byte still there spins (R176). -/
def putrxP0 (b : Byte) (s : State) : Out :=
  portRead .probe (.putrx b) .r0 s fun v t =>
    .next (if enTest s.cfg v = false then t.probeDone
      else if fullTest v then t.probeGoto (.putrx b) .p0 .unwritten
      else t.probeGoto (.putrx b) .p1 .unwritten)

/-- `PUTRX` P1: the payload (R176). -/
def putrxP1 (b : Byte) (s : State) : Out :=
  .next ((s.probeWrite .r1 b).probeGoto (.putrx b) .p2 .unwritten)

/-- `PUTRX` P2: enabled and full, the whole register written (R176). -/
def putrxP2 (s : State) : Out :=
  probeStore .r0 (enMask s.cfg ||| fullMask) s

/-- `PUTRX #b` (R176). -/
def execPutrx (b : Byte) (s : State) : Out :=
  match s.pcur with
  | .busy _ .p1 _ => putrxP1 b s
  | .busy _ .p2 _ => putrxP2 s
  | _ => putrxP0 b s

/-- `TAKETX` P0, A and B: not attached ends it, nothing to take spins (R177). -/
def taketxP0AB (s : State) : Out :=
  portRead .probe .taketx .r2 s fun v t =>
    .next (if enTest s.cfg v = false then t.probeDone
      else if fullTest v then t.probeGoto .taketx .p1 .unwritten
      else t.probeGoto .taketx .p0 .unwritten)

/-- `TAKETX` P0, C: the status alone is tested (R178). -/
def taketxP0C (s : State) : Out :=
  portRead .probe .taketx .r2 s fun v t =>
    .next (if v = 0 then t.probeGoto .taketx .p0 .unwritten else t.probeGoto .taketx .p1 .unwritten)

/-- `TAKETX` P1: the payload or message read (R177, R178). -/
def taketxP1 (s : State) : Out :=
  portRead .probe .taketx .r3 s fun v t => .next (t.probeGoto .taketx .p2 (.byte v))

/-- `TAKETX` P2: `TXF` is left enabled and empty in A and B (R177), `MSGSTATUS` clear in C (R178). -/
def taketxP2 (plat : Byte) (s : State) : Out :=
  let left : Byte := match s.cfg.variant with
    | .A | .B => enMaskAB
    | .C => 0x00
  .next (((s.probeWrite .r2 left).setPres plat).logProbe plat).probeDone

/-- The phases of `TAKETX` (R177, R178). A record in `pcur` that is none of them does not occur in a run; it starts at P0 (log 7). -/
def taketxAt (p0 : State → Out) (s : State) : Out :=
  match s.pcur with
  | .busy _ .p1 _ => taketxP1 s
  | .busy _ .p2 (.byte plat) => taketxP2 plat s
  | _ => p0 s

/-- `TAKETX` (R177 in A and B, R178 in C): refused in C when a CPU write of `MSG` does not set the status. -/
def execTaketx (s : State) : Out :=
  match s.cfg.variant with
  | .A | .B => taketxAt taketxP0AB s
  | .C => if s.cfg.statusSetOnCpuWrite then taketxAt taketxP0C s else .refused .notInVariant

/-- `PCLRST` (R179): C only. -/
def execPclrst (s : State) : Out :=
  match s.cfg.variant with
  | .A | .B => .refused .notInVariant
  | .C => probeStore .r2 0x00 s

end Sys2Proof.Machine
end

