-- ==== Sys2Proof/Machine/Dispatch.lean ====
section
/-!
DEFINITION. One arm per operation of the opcode map, each one direct call of its meaning.
-/

namespace Sys2Proof.Machine

def exec (i : Instr) (s : State) : Host.Outcome State Fault Refusal :=
  match i with
  | .crd r => Sys2Proof.Machine.execCrd r s
  | .cwr r imm => Sys2Proof.Machine.execCwr r imm s
  | .cbs r m => Sys2Proof.Machine.execCbs r m s
  | .cbc r m => Sys2Proof.Machine.execCbc r m s
  | .lenrx => Sys2Proof.Machine.execLenrx s
  | .lentx => Sys2Proof.Machine.execLentx s
  | .lfulrx => Sys2Proof.Machine.execLfulrx s
  | .lbsytx => Sys2Proof.Machine.execLbsytx s
  | .lsettx => Sys2Proof.Machine.execLsettx s
  | .lclrrx => Sys2Proof.Machine.execLclrrx s
  | .lrdrx => Sys2Proof.Machine.execLrdrx s
  | .lwrtx b => Sys2Proof.Machine.execLwrtx b s
  | .enrx => Sys2Proof.Machine.execEnrx s
  | .entx => Sys2Proof.Machine.execEntx s
  | .poll => Sys2Proof.Machine.execPoll s
  | .recv => Sys2Proof.Machine.execRecv s
  | .xmit b => Sys2Proof.Machine.execXmit b s
  | .xmitr => Sys2Proof.Machine.execXmitr s
  | .jmp t => Sys2Proof.Machine.execJmp t s
  | .jz t => Sys2Proof.Machine.execJz t s
  | .jnz t => Sys2Proof.Machine.execJnz t s
  | .halt => Sys2Proof.Machine.execHalt s
  | .prd r => Sys2Proof.Machine.execPrd r s
  | .pwr r imm => Sys2Proof.Machine.execPwr r imm s
  | .attrx => Sys2Proof.Machine.execAttrx s
  | .detrx => Sys2Proof.Machine.execDetrx s
  | .atttx => Sys2Proof.Machine.execAtttx s
  | .dettx => Sys2Proof.Machine.execDettx s
  | .putrx b => Sys2Proof.Machine.execPutrx b s
  | .taketx => Sys2Proof.Machine.execTaketx s
  | .pclrst => Sys2Proof.Machine.execPclrst s

end Sys2Proof.Machine
end

