-- ==== Sys2Proof/Machine/Agents.lean ====
section
/-!
DEFINITION. The two agents' steps (R20, R24, R204) and the scheduler (R67, R88): fetch, decode in the agent's own list, and the phase.
-/

namespace Sys2Proof.Machine

/-- The refusal a decoding reason becomes (R84, R225). -/
def decodeRefusal : DecodeError → Refusal
  | .reservedOpcode => .reservedOpcode
  | .nonzeroUnusedField => .nonzeroUnusedField
  | .wrongAgent => .wrongAgent

/-- The command word at `pc`; none when `pc` is not below the program's length (R23, R204). -/
def State.fetch (s : State) : Option CmdWord :=
  s.prog[s.pc]?

/-- What a failed fetch records (R224): no command word was read. -/
def fetchFault (s : State) : Fault :=
  .pcOutOfProgram { agent := .cpu, word := none, pc := some s.pc, reg := none }

/-- The CPU agent has an enabled step (R204). -/
def State.cpuEnabled (s : State) : Bool :=
  !s.halted

/-- The probe agent has an enabled step: an action in progress, or one still in its schedule (R24, R88). -/
def State.probeEnabled (s : State) : Bool :=
  s.pcur != .idle || s.psched != []

/-- The CPU agent's step (R204). A halted agent has no step: nothing changes (log 4). -/
def cpuStep (s : State) : Out :=
  if s.halted then .next s
  else
    match s.cur with
    | .busy op _ _ => exec op s
    | .idle =>
      match s.fetch with
      | none => .fault (fetchFault s)
      | some w =>
        match decodeFor .cpu w with
        | .error e => .refused (decodeRefusal e)
        | .ok i => exec i s

/-- The probe agent's step (R24, R88): the action in progress, else the next word of its schedule. With neither it has no step:
nothing changes (log 4). The words still to be taken are a finite list at any time; a run may be fed further ones without end
(log 16). -/
def probeStep (s : State) : Out :=
  match s.pcur with
  | .busy op _ _ => exec op s
  | .idle =>
    match s.psched with
    | [] => .next s
    | w :: ws =>
      match decodeFor .probe w with
      | .error e => .refused (decodeRefusal e)
      | .ok i => exec i { s with psched := ws }

/-- The agent that takes the next step: the interleaving's, and a free value when it says nothing (R67, R88; log 3). -/
def State.turn (s : State) : Agent :=
  match s.turns with
  | a :: _ => a
  | [] => Config.freeTurn s.turnNo

/-- The turn used up (log 3). -/
def State.takeTurn (s : State) : State :=
  match s.turns with
  | _ :: ts => { s with turns := ts }
  | [] => { s with turnNo := s.turnNo + 1 }

/-- One agent's step (R67, R227). -/
def agentStep (a : Agent) (s : State) : Out :=
  match a with
  | .cpu => cpuStep s
  | .probe => probeStep s

/-- The program with the word `w` at index `n`, padded with 0x0000 where it was shorter. -/
def placeWord (prog : List CmdWord) (n : Nat) (w : CmdWord) : List CmdWord :=
  prog.take n ++ List.replicate (n - prog.length) 0 ++ w :: prog.drop (n + 1)

/-- The state in which the very next step is the first step of the command word `w`, by the agent of its `op[5]` (R80): the CPU agent
fetches it at `pc`, or the probe agent takes it first from its schedule (log 5). -/
def State.withWord (s : State) (w : CmdWord) : State :=
  if w.getLsbD 15 then
    { s with psched := w :: s.psched, pcur := .idle, turns := .probe :: s.turns }
  else
    { s with prog := placeWord s.prog s.pc w, cur := .idle, halted := false, turns := .cpu :: s.turns }

/-- A program, a probe schedule and an interleaving given from outside before a run (R23, R88; log 5). -/
def State.load (s : State) (prog psched : List CmdWord) (turns : List Agent) : State :=
  { s with prog := prog, psched := psched, turns := turns }

/-- What may be given from outside between two steps: further words of the probe schedule and further turns (R88; log 16). -/
structure Feed where
  words : List CmdWord
  turns : List Agent
deriving DecidableEq, Repr

/-- The words and turns put after those still to be taken (log 16). -/
def State.feed (s : State) (f : Feed) : State :=
  { s with psched := s.psched ++ f.words, turns := s.turns ++ f.turns }

end Sys2Proof.Machine
end

