-- ==== Sys2Proof/Machine/Step.lean ====
section
/-!
DEFINITION. The machine's step: one phase of the agent whose turn it is (R11, R67), and the host's way of placing one command word.
-/

namespace Sys2Proof.Machine

/-- One step: one phase of one agent (R11, R67, R227). -/
def step (s : State) : Host.Outcome State Fault Refusal :=
  agentStep s.turn s.takeTurn

/-- `s` with the command word of the low `nbits` bits of `w` placed so that the very next step fetches and runs it (log 5). -/
def State.withFetchWord (s : State) (nbits w : Nat) : State :=
  s.withWord (BitVec.ofNat 16 (w % 2 ^ nbits))

end Sys2Proof.Machine
end

