-- ==== Sys2Proof/Machine/Assembler.lean ====
section
/-!
DEFINITION. The assembler's text (R87), programs and interleavings as text (R88), and the pseudo-operations in it (R94, R95). The
machine never reads text: this says which words a text stands for. A text is its list of characters.
-/

namespace Sys2Proof.Machine

/-- The name of register `i` in a variant (R26). -/
def regName (v : Variant) (i : RegIx) : String :=
  match v, i with
  | .C, .r0 => "FLAGS"
  | _, .r0 => "RXF"
  | _, .r1 => "RXD"
  | .C, .r2 => "MSGSTATUS"
  | _, .r2 => "TXF"
  | .C, .r3 => "MSG"
  | _, .r3 => "TXD"

/-- The tokens of a line (R87). -/
inductive Token where
  | word (cs : List Char)
  | comma
  | colon
  | hash
deriving DecidableEq, Repr

/-- The word read so far, kept last character first, as a token. -/
def flushWord (acc : List Char) : List Token :=
  match acc with
  | [] => []
  | _ :: _ => [.word acc.reverse]

/-- The tokens of one line; a comment runs from `;` to its end (R87). Which characters only set a line out, and which a name may have, is
log 15. -/
def tokens : List Char → List Char → List Token
  | [], acc => flushWord acc
  | c :: cs, acc =>
    if c = ';' then flushWord acc
    else if c = ' ' ∨ c = '\t' ∨ c = '\r' then flushWord acc ++ tokens cs []
    else if c = ',' then flushWord acc ++ .comma :: tokens cs []
    else if c = ':' then flushWord acc ++ .colon :: tokens cs []
    else if c = '#' then flushWord acc ++ .hash :: tokens cs []
    else tokens cs (c :: acc)

/-- The lines of a text; `acc` is the current line, last character first. -/
def linesOf : List Char → List Char → List (List Char)
  | [], acc => [acc.reverse]
  | c :: cs, acc => if c = '\n' then acc.reverse :: linesOf cs [] else linesOf cs (c :: acc)

/-- The value of a digit in a base up to 16. -/
def digitOf (base : Nat) (c : Char) : Option Nat :=
  let n := c.toNat
  let d :=
    if 48 ≤ n ∧ n ≤ 57 then n - 48
    else if 65 ≤ n ∧ n ≤ 70 then n - 55
    else if 97 ≤ n ∧ n ≤ 102 then n - 87
    else 16
  if d < base then some d else none

/-- The number a list of digits writes, after `acc`. -/
def digitsOf (base : Nat) : List Char → Nat → Option Nat
  | [], acc => some acc
  | c :: cs, acc =>
    match digitOf base c with
    | none => none
    | some d => digitsOf base cs (acc * base + d)

/-- A number from 0 to 255, hexadecimal `0x..` or decimal (R87); hexadecimal digits of either case and leading zeros are the model's
reading (log 15). -/
def numberOf (cs : List Char) : Option Byte :=
  let n :=
    match cs with
    | '0' :: 'x' :: h :: hs => digitsOf 16 (h :: hs) 0
    | d :: ds => digitsOf 10 (d :: ds) 0
    | [] => none
  match n with
  | some k => if k ≤ 255 then some (BitVec.ofNat 8 k) else none
  | none => none

/-- A register operand: `r0` to `r3`, or a register name of the current variant (R87). -/
def registerOf (v : Variant) (cs : List Char) : Option RegIx :=
  if cs = "r0".toList ∨ cs = (regName v .r0).toList then some .r0
  else if cs = "r1".toList ∨ cs = (regName v .r1).toList then some .r1
  else if cs = "r2".toList ∨ cs = (regName v .r2).toList then some .r2
  else if cs = "r3".toList ∨ cs = (regName v .r3).toList then some .r3
  else none

/-- One operand of a line: a register, or what follows `#` (a number or a label). -/
inductive Operand where
  | reg (cs : List Char)
  | imm (cs : List Char)
deriving DecidableEq, Repr

/-- The operands of a line, separated by commas (R87). -/
def operandsOf : List Token → Option (List Operand)
  | [] => some []
  | [.word cs] => some [.reg cs]
  | [.hash, .word cs] => some [.imm cs]
  | .word cs :: .comma :: t :: ts => (operandsOf (t :: ts)).map (.reg cs :: ·)
  | .hash :: .word cs :: .comma :: t :: ts => (operandsOf (t :: ts)).map (.imm cs :: ·)
  | _ => none

/-- One line: the labels before its word, and the operation with its operands if it has one (R87). -/
structure Line where
  labels : List (List Char)
  stmt : Option (List Char × List Operand)
deriving DecidableEq, Repr

/-- The labels of a line and what follows them. -/
def labelsOf : List Token → List (List Char) × List Token
  | .word cs :: .colon :: ts => (cs :: (labelsOf ts).1, (labelsOf ts).2)
  | ts => ([], ts)

/-- The line that a list of tokens is. -/
def lineOf (ts : List Token) : Option Line :=
  match (labelsOf ts).2 with
  | [] => some { labels := (labelsOf ts).1, stmt := none }
  | .word m :: os =>
    match operandsOf os with
    | some xs => some { labels := (labelsOf ts).1, stmt := some (m, xs) }
    | none => none
  | _ => none

/-- Where the labels stand: each at the index of the word it precedes. -/
abbrev LabelMap := List (List Char × Nat)

/-- The number after `#`, or, where a jump target may stand, the index of a label (R87). What reads as a number is one, the first of two
equal labels counts, and a label past 255 is no operand: log 15. -/
def immOf (labels : LabelMap) (jump : Bool) (cs : List Char) : Option Byte :=
  match numberOf cs with
  | some b => some b
  | none =>
    if jump then
      match labels.find? (fun p => p.1 == cs) with
      | some p => if p.2 ≤ 255 then some (BitVec.ofNat 8 p.2) else none
      | none => none
    else none

/-- The row's operation takes a jump target (R82): `JMP`, `JZ`, `JNZ`. -/
def rowIsJump (k : OpRow) : Bool :=
  k.op == 0x18 || k.op == 0x19 || k.op == 0x1A

/-- The pseudo-operation of a line, if its mnemonic names one (R94, R95). -/
def pseudoOf (labels : LabelMap) (m : List Char) (os : List Operand) : Option Pseudo :=
  match os with
  | [] =>
    if m = "WAITRX".toList then some .waitrx
    else if m = "WAITBYTE".toList then some .waitbyte
    else if m = "GETC".toList then some .getc
    else if m = "PUTCR".toList then some .putcr
    else none
  | [.imm cs] =>
    if m = "TRYRECV".toList then (immOf labels true cs).map .tryrecv
    else if m = "PUTC".toList then (immOf labels false cs).map .putc
    else none
  | _ => none

/-- How many words a mnemonic's operation takes: more than one only for the patterns of R94. -/
def wordsOf (m : List Char) : Nat :=
  if m = "WAITRX".toList ∨ m = "WAITBYTE".toList then 2 else if m = "TRYRECV".toList then 3 else 1

/-- The operation of a row with a line's operands, by the row's format (R81, R87). -/
def rowInstr (v : Variant) (labels : LabelMap) (k : OpRow) (os : List Operand) : Option Instr :=
  match k.fmt, os with
  | .n, [] => some (k.make .r0 0)
  | .r, [.reg cs] => (registerOf v cs).map (k.make · 0)
  | .ri, [.reg cs, .imm ds] =>
    match registerOf v cs, immOf labels false ds with
    | some r, some b => some (k.make r b)
    | _, _ => none
  | .i, [.imm ds] => (immOf labels (rowIsJump k) ds).map (k.make .r0 ·)
  | _, _ => none

/-- The operations of one line's statement, whose first word stands at index `at_` (R87, R94). -/
def stmtInstrs (v : Variant) (labels : LabelMap) (at_ : Nat) (m : List Char) (os : List Operand) : Option (List Instr) :=
  match pseudoOf labels m os with
  | some p => some (p.expand (BitVec.ofNat 8 at_))
  | none =>
    match opTable.find? (fun k => k.name.toList == m) with
    | some k => (rowInstr v labels k os).map ([·])
    | none => none

/-- Every label of a text, from index `at_` on: each at the index of the word it precedes, which may stand on a later line (R87). DESIGN
CHOICE (log 15): R87 gives a label that precedes no word no index; it stands for the index after the last word. -/
def labelMap (at_ : Nat) : List Line → LabelMap
  | [] => []
  | l :: ls =>
    l.labels.map (fun c => (c, at_)) ++
      labelMap (at_ + match l.stmt with
        | some p => wordsOf p.1
        | none => 0) ls

/-- The operations of a text's lines, from index `at_` on; none if a line is not one of R87's. -/
def linesInstrs (v : Variant) (labels : LabelMap) (at_ : Nat) : List Line → Option (List Instr)
  | [] => some []
  | l :: ls =>
    match l.stmt with
    | none => linesInstrs v labels at_ ls
    | some (m, os) =>
      match stmtInstrs v labels at_ m os with
      | none => none
      | some is =>
        match linesInstrs v labels (at_ + is.length) ls with
        | none => none
        | some js => some (is ++ js)

/-- The lines of a text. -/
def parseLines : List (List Char) → Option (List Line)
  | [] => some []
  | cs :: css =>
    match lineOf (tokens cs []), parseLines css with
    | some l, some ls => some (l :: ls)
    | _, _ => none

/-- The command words a text stands for in a variant (R87, R88): a CPU program, or a probe schedule. It checks neither the program's length
nor whose operations they are (log 15). -/
def assemble (v : Variant) (text : List Char) : Option (List CmdWord) :=
  match parseLines (linesOf text []) with
  | none => none
  | some ls => (linesInstrs v (labelMap 0 ls) 0 ls).map (·.map encode)

/-- An interleaving written as a string of `C` and `P` (R88); spaces only set it out. -/
def interleaving : List Char → Option (List Agent)
  | [] => some []
  | c :: cs =>
    if c = 'C' then (interleaving cs).map (.cpu :: ·)
    else if c = 'P' then (interleaving cs).map (.probe :: ·)
    else if c = ' ' then interleaving cs
    else none

end Sys2Proof.Machine
end

