-- ==== Sys2Proof/Machine/Bus.lean ====
section
/-!
DEFINITION. The address binding (20_memory.md): both ports reach the four registers at `ADDR(VARIANT, 0..3)`. Command words name
register indices only (R62), so no step goes through an address; these operations say what an access by address is.
-/

namespace Sys2Proof.Machine

/-- `ADDR(VARIANT, i)` (R60); the probe side reaches the same cells at the same addresses (R61). -/
def addrOf (c : Config) : RegIx → Nat
  | .r0 => c.addr0
  | .r1 => c.addr1
  | .r2 => c.addr2
  | .r3 => c.addr3

/-- The register at an address, if the block answers there (R60, R62). -/
def indexAt (c : Config) (a : Nat) : Option RegIx :=
  if a = c.addr0 then some .r0
  else if a = c.addr1 then some .r1
  else if a = c.addr2 then some .r2
  else if a = c.addr3 then some .r3
  else none

/-- Some byte of an access of `n` bytes at `a` is a register of the block. DESIGN CHOICE (log 12): R62 leaves the width of the address
spaces open; addresses are natural numbers, so the bytes of an access never wrap at the top of a space. -/
def touchesBlock (c : Config) (a n : Nat) : Bool :=
  (List.range n).any fun d => (indexAt c (a + d)).isSome

/-- The register a one-byte access at `a` reaches; a wider access to the block is refused (R69), and an access outside it has no
meaning (R62; log 12). DESIGN CHOICE (log 12): R226's order does not place `WideAccess`; it is reported before the port's rights. -/
def busTarget (c : Config) (a n : Nat) : Except Refusal RegIx :=
  if touchesBlock c a n then
    if n = 1 then
      match indexAt c a with
      | some i => .ok i
      | none => .error .outsideBlock
    else .error .wideAccess
  else .error .outsideBlock

/-- `MemRead(a, n)` on a port, for the operation `op` (R10): `CpuRead` or `ProbeRead` of the register there, with the port's rights
(R228). -/
def busRead (ag : Agent) (op : Instr) (a n : Nat) (s : State) (k : Byte → State → Out) : Out :=
  match busTarget s.cfg a n with
  | .error q => .refused q
  | .ok i =>
    match ag with
    | .cpu => refuseOr (cpuReadRefusal s.cfg i) (portRead .cpu op i s k)
    | .probe => portRead .probe op i s k

/-- `MemWrite(a, n, v)` on a port (R10): `CpuWrite` or `ProbeWrite` of the register there, with the port's rights (R228). -/
def busWrite (ag : Agent) (a n : Nat) (v : Byte) (s : State) : Out :=
  match busTarget s.cfg a n with
  | .error q => .refused q
  | .ok i =>
    match ag with
    | .cpu => refuseOr (cpuWriteRefusal s.cfg i) (.next (s.cpuWrite i v))
    | .probe => .next (s.probeWrite i v)

/-- An instruction fetch of `n` bytes at an address: refused from the block (R75), and no meaning elsewhere (R62; log 12). DESIGN CHOICE
(log 12): R226's order does not place `FetchFromBlock`; a fetch of any width is reported as that, not as `WideAccess`. -/
def busFetch (a n : Nat) (s : State) : Out :=
  if touchesBlock s.cfg a n then .refused .fetchFromBlock else .refused .outsideBlock

end Sys2Proof.Machine
end

