-- ==== Sys2Proof/Safety.lean ====
section
/-!
DEFINITION. The terms claims use: what a run that has ended is (R270), the invariants of the machine, the history read as the
registers' past (R33, R71), which operations may write or move what (R31, R36), the conforming probe (R190), the single slot of each
direction (R152), and runs with the CPU agent's fairness (R268).
-/

namespace Sys2Proof.Machine

/-- The step reached a next state: no fault and no refusal (R224, R225). -/
def isNext (o : Out) : Bool :=
  match o with
  | .next _ => true
  | .fault _ => false
  | .refused _ => false

/-- The run has ended (R270): the CPU agent is halted, the probe agent is idle and its schedule is done. -/
def State.ended (s : State) : Bool :=
  s.halted && s.pcur == .idle && s.psched == []

/-- A CPU operation that takes its byte from the operand or from `res` (R145, R148), at a phase the variant has (R146, R147). -/
def xmitPhaseOk (v : Variant) (ph : CpuPhase) : Bool :=
  match v with
  | .A | .B => ph == .t0 || ph == .t1 || ph == .t2
  | .C => ph == .t0 || ph == .ts || ph == .t1

/-- The records `cur` holds in a run: an operation of several phases, at one of them, with what it has latched (R24, R144, R146 to
R148). -/
def cpuRecordOk (v : Variant) (op : Instr) (ph : CpuPhase) (lat : Content) : Bool :=
  match op, lat with
  | .recv, .unwritten => ph == .v0 || ph == .v1
  | .recv, .byte _ => ph == .v2
  | .xmit _, .unwritten => xmitPhaseOk v ph
  | .xmitr, .byte _ => xmitPhaseOk v ph
  | _, _ => false

/-- The records `pcur` holds in a run (R24, R176 to R178). -/
def probeRecordOk (c : Config) (op : Instr) (ph : ProbePhase) (lat : Content) : Bool :=
  match op, lat with
  | .putrx _, .unwritten => true
  | .taketx, .unwritten => (ph == .p0 || ph == .p1) && (c.variant != .C || c.statusSetOnCpuWrite)
  | .taketx, .byte _ => ph == .p2 && (c.variant != .C || c.statusSetOnCpuWrite)
  | _, _ => false

/-- The operation in progress is the one of the word at `pc`, the agent is not halted, and the record is one of a run's (R24, R204). -/
def State.curOk (s : State) : Bool :=
  match s.cur with
  | .idle => true
  | .busy op ph lat =>
    !s.halted && s.fetch == some (encode op) && cpuRecordOk s.cfg.variant op ph lat

/-- The action in progress is one of a run's (R24). -/
def State.pcurOk (s : State) : Bool :=
  match s.pcur with
  | .idle => true
  | .busy op ph lat => probeRecordOk s.cfg op ph lat

/-- What every step keeps: a program of at most 256 words, a `pc` that never passes its largest value (log 6), and records in `cur` and
`pcur` that belong to the operation in progress. -/
def State.Inv (s : State) : Prop :=
  programWf s.prog = true ∧ s.pc ≤ 256 ∧ s.curOk = true ∧ s.pcurOk = true

/-! ### The history as the registers' past -/

/-- What one event left in the registers (R34, R40). -/
def applyEvent (c : Config) (g : RegFile) (e : Event) : RegFile :=
  match e.kind with
  | .rd => g
  | .rmw => g.set e.reg e.value
  | .wr =>
    let g' := g.set e.reg e.value
    if e.agent = .cpu ∧ c.variant = .C ∧ e.reg = .r3 ∧ c.statusSetOnCpuWrite = true then { g' with r2 := statusSetValue }
    else g'

/-- The registers after a history that began with the contents `g` (R71). -/
def replay (c : Config) (g : RegFile) : List Event → RegFile
  | [] => g
  | e :: es => replay c (applyEvent c g e) es

/-- Every read in the history returned what the accesses before it had left (R71). -/
def readsCoherent (c : Config) (g : RegFile) : List Event → Bool
  | [] => true
  | e :: es => (e.kind != .rd || g.get e.reg == .byte e.value) && readsCoherent c (applyEvent c g e) es

/-- The registers are what the whole history since reset left (so a register is `⊥` exactly when no access has written it, R33), and
every read in it returned the latest byte before it (R71). -/
def State.Coherent (s : State) : Prop :=
  s.regs = replay s.cfg RegFile.reset s.history ∧ readsCoherent s.cfg RegFile.reset s.history = true

/-! ### What an operation may write, and how it may move a channel -/

/-- The registers an operation may write, over all its phases and with the side effect of R34. -/
def mayWrite (c : Config) (i : Instr) (j : RegIx) : Bool :=
  match i with
  | .cwr r _ => j == r || (c.variant == .C && r == .r3 && j == .r2 && c.statusSetOnCpuWrite)
  | .cbs r _ | .cbc r _ | .pwr r _ => j == r
  | .lsettx => j == .r2
  | .lclrrx | .recv => j == .r0
  | .lwrtx _ => j == .r3 || (c.variant == .C && j == .r2 && c.statusSetOnCpuWrite)
  | .xmit _ | .xmitr => j == .r3 || (j == .r2 && (c.variant != .C || c.statusSetOnCpuWrite))
  | .attrx | .detrx => j == .r0
  | .atttx | .dettx => j == txEnReg c
  | .putrx _ => j == .r0 || j == .r1
  | .taketx | .pclrst => j == .r2
  | .crd _ | .lenrx | .lentx | .lfulrx | .lbsytx | .lrdrx | .enrx | .entx | .poll => false
  | .jmp _ | .jz _ | .jnz _ | .halt | .prd _ => false

/-- A raw write of either port, which is outside the protocol (R36). -/
def rawWrite : Instr → Bool
  | .cwr _ _ | .cbs _ _ | .cbc _ _ | .pwr _ _ => true
  | _ => false

/-- The attach action that reaches a direction: in C either one reaches both (R30, R172, R174). -/
def attaches (c : Config) (d : Dir) (i : Instr) : Bool :=
  match d with
  | .rx => i == .attrx || (c.variant == .C && i == .atttx)
  | .tx => i == .atttx || (c.variant == .C && i == .attrx)

/-- The detach action that reaches a direction (R30, R173, R175). -/
def detaches (c : Config) (d : Dir) (i : Instr) : Bool :=
  match d with
  | .rx => i == .detrx || (c.variant == .C && i == .dettx)
  | .tx => i == .dettx || (c.variant == .C && i == .detrx)

/-- `PUTRX`, whatever its byte. -/
def isPutrx : Instr → Bool
  | .putrx _ => true
  | _ => false

/-- The CPU operations that fill the TX slot of the variant (R36): the set of `TXF.FULL` in A and B, the write of `MSG` in C where it sets
the status. -/
def fillsTx (c : Config) : Instr → Bool
  | .xmit _ | .xmitr => c.variant != .C || c.statusSetOnCpuWrite
  | .lsettx => c.variant != .C
  | .lwrtx _ => c.variant == .C && c.statusSetOnCpuWrite
  | _ => false

/-- The actors that may bring a channel into a state it was not in (R36, with R174's stale status in C and R176's whole-register
write, which in C enables TX too, over a stale status or not). -/
def mayMoveTo (c : Config) (i : Instr) (d : Dir) (b : ChanState) : Bool :=
  match b with
  | .disabled => detaches c d i
  | .enabledFull =>
    match d with
    | .rx => isPutrx i
    | .tx => fillsTx c i || (c.variant == .C && (attaches c d i || isPutrx i))
  | .enabledEmpty =>
    match d with
    | .rx => attaches c d i || i == .recv || i == .lclrrx
    | .tx => attaches c d i || i == .taketx || i == .pclrst || (c.variant == .C && isPutrx i)

/-! ### The protocol -/

/-- No word of the list decodes to an operation that `bad` names. -/
def wordsAvoid (bad : Instr → Bool) (ws : List CmdWord) : Bool :=
  ws.all fun w =>
    match decode w with
    | .ok i => !bad i
    | .error _ => true

/-- The operation in progress is none that `bad` names. -/
def Progress.avoids {φ : Type} (bad : Instr → Bool) : Progress φ → Bool
  | .idle => true
  | .busy op _ _ => !bad op

/-- Neither agent runs, or will run, an operation that `bad` names. -/
def State.avoids (s : State) (bad : Instr → Bool) : Bool :=
  wordsAvoid bad s.prog && wordsAvoid bad s.psched && s.cur.avoids bad && s.pcur.avoids bad

/-- RX full is set only while RX is enabled: what a conforming probe keeps (R142, C2). -/
def State.RxFullOnlyEnabled (s : State) : Prop :=
  fullTest s.regs.r0 = true → enTest s.cfg s.regs.r0 = true

/-- The instructions a list of words decodes to for the probe agent; none if one is refused (R84, R88). -/
def probeActions : List CmdWord → Option (List Instr)
  | [] => some []
  | w :: ws =>
    match decodeFor .probe w, probeActions ws with
    | .ok i, some is => some (i :: is)
    | _, _ => none

/-- What a conforming probe has attached (R190). -/
structure Ledger where
  rx : Bool
  tx : Bool
deriving DecidableEq, Repr

/-- The direction is attached and not detached since. -/
def Ledger.on (l : Ledger) : Dir → Bool
  | .rx => l.rx
  | .tx => l.tx

/-- The ledger after an action. In C either attach attaches both directions and either detach detaches both, since one enable bit serves
them (R30, R172 to R175; log 14). -/
def Ledger.after (c : Config) (l : Ledger) (i : Instr) : Ledger :=
  { rx := (l.rx || attaches c .rx i) && !detaches c .rx i
    tx := (l.tx || attaches c .tx i) && !detaches c .tx i }

/-- The actions a conforming probe may issue (R190 (1) to (3), (5)). -/
def Ledger.allows (l : Ledger) : Instr → Bool
  | .attrx => !l.rx
  | .atttx => !l.tx
  | .putrx _ => l.rx
  | .taketx => l.tx
  | .detrx | .dettx | .pclrst | .prd _ => true
  | _ => false

/-- The actions of a conforming probe, in order, from what it has attached. -/
def conformingFrom (c : Config) (l : Ledger) : List Instr → Bool
  | [] => true
  | i :: is => l.allows i && conformingFrom c (l.after c i) is

/-- A schedule, or the first words of one, of a conforming probe that has attached nothing yet (R190 (1) to (3), (5)). -/
def conformingSchedule (c : Config) (ws : List CmdWord) : Bool :=
  match probeActions ws with
  | some is => conformingFrom c ⟨false, false⟩ is
  | none => false

/-! ### The single slot of a direction -/

/-- What breaks the premise of R152: a raw write, a layout primitive that writes outside `RECV`'s and `XMIT`'s order, an attach or a
detach, and a status clear that takes nothing. -/
def breaksSlot : Instr → Bool
  | .cwr _ _ | .cbs _ _ | .cbc _ _ | .lsettx | .lclrrx | .lwrtx _ => true
  | .pwr _ _ | .attrx | .detrx | .atttx | .dettx | .pclrst => true
  | _ => false

/-- A content as a list of at most one byte. -/
def Content.toList : Content → List Byte
  | .unwritten => []
  | .byte b => [b]

/-- The bytes the firmware has put in the TX slot, in order: its writes of register 3. -/
def sentBytes (h : List Event) : List Byte :=
  h.filterMap fun e => if e.agent = .cpu ∧ e.kind = .wr ∧ e.reg = .r3 then some e.value else none

/-- The bytes the probe has put in the RX slot, in order: its writes of register 1. -/
def deliveredBytes (h : List Event) : List Byte :=
  h.filterMap fun e => if e.agent = .probe ∧ e.kind = .wr ∧ e.reg = .r1 then some e.value else none

/-- The CPU agent is at a phase. -/
def State.atPhase (s : State) (ph : CpuPhase) : Bool :=
  match s.cur with
  | .idle => false
  | .busy _ q _ => q == ph

/-- The CPU agent's latch. -/
def State.curLat (s : State) : Content :=
  match s.cur with
  | .idle => .unwritten
  | .busy _ _ lat => lat

/-- The probe agent is at a phase of `TAKETX`. -/
def State.takeAt (s : State) (ph : ProbePhase) : Bool :=
  match s.pcur with
  | .idle => false
  | .busy op q _ => op == .taketx && q == ph

/-- The probe agent is at a phase of `PUTRX`. -/
def State.putAt (s : State) (ph : ProbePhase) : Bool :=
  match s.pcur with
  | .idle => false
  | .busy op q _ => isPutrx op && q == ph

/-- The probe agent's latch. -/
def State.pcurLat (s : State) : Content :=
  match s.pcur with
  | .idle => .unwritten
  | .busy _ _ lat => lat

/-- The TX slot holds a byte not yet taken: it is marked full, or (A, B) written and about to be marked (R146, R147). -/
def State.txPending (s : State) : List Byte :=
  if busyTest s.cfg s.regs.r2 || s.atPhase .t2 then s.regs.r3.toList else []

/-- The RX slot holds a byte not yet received: it is marked full, or written and about to be marked (R176). -/
def State.rxPending (s : State) : List Byte :=
  if fullTest s.regs.r0 || s.putAt .p2 then s.regs.r1.toList else []

/-- The TX slot's discipline and its books: the bytes sent are the bytes taken and the one pending, in order (R152). -/
def State.TxSlot (s : State) : Prop :=
  s.Inv ∧ s.avoids breaksSlot = true ∧ (s.cfg.variant = .C → s.cfg.statusSetOnCpuWrite = true) ∧
  (s.atPhase .t1 = true ∨ s.atPhase .t2 = true → busyTest s.cfg s.regs.r2 = false) ∧
  (s.takeAt .p1 = true → busyTest s.cfg s.regs.r2 = true) ∧
  (s.takeAt .p2 = true → busyTest s.cfg s.regs.r2 = true ∧ s.pcurLat = s.regs.r3) ∧
  sentBytes s.history = s.plog ++ s.txPending

/-- The RX slot's discipline and its books: the bytes delivered are the bytes received and the one pending, in order (R152). -/
def State.RxSlot (s : State) : Prop :=
  s.Inv ∧ s.avoids breaksSlot = true ∧
  (s.putAt .p1 = true ∨ s.putAt .p2 = true → fullTest s.regs.r0 = false) ∧
  (s.atPhase .v1 = true → fullTest s.regs.r0 = true) ∧
  (s.atPhase .v2 = true → fullTest s.regs.r0 = true ∧ s.curLat = s.regs.r1) ∧
  deliveredBytes s.history = s.clog ++ s.rxPending

/-! ### Runs -/

/-- `n` phases of one operation with no step of the other agent between them, stopping at the first fault or refusal. -/
def phases : Nat → Instr → State → Out
  | 0, _, s => .next s
  | n + 1, i, s =>
    match exec i s with
    | .next t => phases n i t
    | .fault r => .fault r
    | .refused r => .refused r

/-- An infinite run of the machine with no fault and no refusal (R67), given `f n` from outside after step `n`: so the probe's actions and
the turns need never run out (R191; log 16). -/
def IsRunOf (f : Nat → Feed) (r : Nat → State) : Prop :=
  ∀ n, ∃ t, step (r n) = .next t ∧ r (n + 1) = t.feed (f n)

/-- An infinite run, whatever is given from outside. -/
def IsRun (r : Nat → State) : Prop :=
  ∃ f, IsRunOf f r

/-- The schedule of a run up to step `n`: the words it began with and those given since (R88). -/
def scheduleGiven (f : Nat → Feed) (r : Nat → State) : Nat → List CmdWord
  | 0 => (r 0).psched
  | n + 1 => scheduleGiven f r n ++ (f n).words

/-- The probe completes every action it starts (R190 (4)). As the rule has it, a probe that waits in P0 for ever is none that does. -/
def ProbeCompletes (r : Nat → State) : Prop :=
  ∀ n, (r n).pcur ≠ .idle → ∃ m, n ≤ m ∧ (r m).pcur = .idle

/-- A run of a conforming probe that begins with nothing attached and no action in progress (R190). -/
def ConformingRun (f : Nat → Feed) (r : Nat → State) : Prop :=
  IsRunOf f r ∧ (r 0).pcur = .idle ∧ (∀ d, chanEn (r 0).cfg (r 0).regs d = false) ∧
    (∀ n, conformingSchedule (r 0).cfg (scheduleGiven f r n) = true) ∧ ProbeCompletes r

/-- The CPU agent is weakly fair (R268): from every point on, it is at some time without an enabled step, or takes one. -/
def CpuFair (r : Nat → State) : Prop :=
  ∀ n, ∃ m, n ≤ m ∧ ((r m).cpuEnabled = false ∨ (r m).turn = .cpu)

/-- The CPU agent is about to jump to the jump's own index (R200). -/
def State.atSelfJump (s : State) : Bool :=
  !s.halted && s.cur == .idle && decide (s.pc < 256) && s.fetch == some (encode (.jmp (BitVec.ofNat 8 s.pc)))

/-- The program has one of R94's waiting loops at index `a`: `ENRX` or `POLL`, and a `JZ` back to it. -/
def waitLoopAt (prog : List CmdWord) (a : Nat) : Bool :=
  decide (a < 256) && (prog[a]? == some (encode .enrx) || prog[a]? == some (encode .poll)) &&
    prog[a + 1]? == some (encode (.jz (BitVec.ofNat 8 a)))

/-- The CPU agent is at either word of a waiting loop (R94; log 13). -/
def State.atWaitLoop (s : State) : Bool :=
  !s.halted && s.cur == .idle && (waitLoopAt s.prog s.pc || (s.pc != 0 && waitLoopAt s.prog (s.pc - 1)))

/-- The CPU agent spins: in `RECV` V0, in `XMIT` T0 or TS (R268), at a jump to itself (R200), or in a waiting loop (R94; log 13). -/
def State.spinning (s : State) : Bool :=
  s.atPhase .v0 || s.atPhase .t0 || s.atPhase .ts || s.atSelfJump || s.atWaitLoop

/-- An infinite run that from some point on keeps the CPU agent spinning (R268, R200). -/
def SpinsForever (r : Nat → State) : Prop :=
  IsRun r ∧ ∃ n, ∀ m, n ≤ m → (r m).spinning = true

/-- A hang (R268): a fair run that spins for ever. -/
def Hangs (r : Nat → State) : Prop :=
  CpuFair r ∧ SpinsForever r

end Sys2Proof.Machine
end

