-- ==== Sys2Proof/Certificates/Slice0/Obligations.lean ====
section
/-!
DEFINITION. The statements for the provers. Every statement is over all states and all configurations, so over every variant and every
value of the open parameters (R7).
-/

open Sys2Proof Sys2Proof.Machine

/-! ### Encoding -/

/-- The decoder reads back every operation the encoder writes, with every operand at every value (R80 to R83). -/
def Obligations.DecodeReadsEncode : Prop :=
  ∀ i : Instr, decode (encode i) = .ok i ∧ decodeFor i.agent (encode i) = .ok i

/-- An accepted word is the encoding of the operation it decodes to: no word has two readings and no operation two words (R81, R83). -/
def Obligations.DecodedWordIsItsEncoding : Prop :=
  ∀ (w : CmdWord) (i : Instr), decode w = .ok i → encode i = w

/-- A word decodes to what a row makes exactly when the row selects it, and no two rows select the same word (R83). -/
def Obligations.DecodeIsTheSelectingRow : Prop :=
  (∀ (w : CmdWord) (i : Instr), decode w = .ok i ↔
    ∃ k ∈ opTable, k.selects w = true ∧ i = k.make (RegIx.ofBits (fieldsOf w).r) (fieldsOf w).imm) ∧
  opTable.Pairwise fun k l => ∀ w : CmdWord, ¬ (k.selects w = true ∧ l.selects w = true)

/-- The refusals of decoding, each with exactly the words it is for, in the order they are checked (R84). -/
def Obligations.DecodeRefusals : Prop :=
  (∀ w : CmdWord, decode w = .error .reservedOpcode ↔
    ((fieldsOf w).op = 0x00 ∨ (0x05 ≤ (fieldsOf w).op ∧ (fieldsOf w).op ≤ 0x07) ∨
     (fieldsOf w).op = 0x16 ∨ (fieldsOf w).op = 0x17 ∨ (0x1B ≤ (fieldsOf w).op ∧ (fieldsOf w).op ≤ 0x1E) ∨
     (0x22 ≤ (fieldsOf w).op ∧ (fieldsOf w).op ≤ 0x27) ∨ 0x2F ≤ (fieldsOf w).op)) ∧
  (∀ w : CmdWord, decode w = .error .nonzeroUnusedField ↔
    ∃ k ∈ opTable, k.op = (fieldsOf w).op ∧ k.fmt.unusedZero (fieldsOf w) = false) ∧
  (∀ w : CmdWord, decode w ≠ .error .wrongAgent) ∧
  (∀ (a : Agent) (w : CmdWord) (e : DecodeError), decode w = .error e → decodeFor a w = .error e) ∧
  (∀ (a : Agent) (w : CmdWord) (i : Instr), decode w = .ok i →
    decodeFor a w = if i.agent = a then .ok i else .error .wrongAgent) ∧
  (∀ (w : CmdWord) (i : Instr), decode w = .ok i → (i.agent = .probe ↔ (fieldsOf w).op.getLsbD 5 = true))

/-- Words of each family, written out from the opcode map, and words that are refused (vectors 2.1). -/
def Obligations.SpecWordsDecode : Prop :=
  decodeFor .cpu 0x0B41 = .ok (.cwr .r3 0x41) ∧ decodeFor .cpu 0x0500 = .ok (.crd .r1) ∧
  decodeFor .cpu 0x0E01 = .ok (.cbs .r2 0x01) ∧ decodeFor .cpu 0x10FF = .ok (.cbc .r0 0xFF) ∧
  decodeFor .cpu 0x3C41 = .ok (.lwrtx 0x41) ∧ decodeFor .cpu 0x5041 = .ok (.xmit 0x41) ∧
  decodeFor .cpu 0x5400 = .ok .xmitr ∧ decodeFor .cpu 0x6402 = .ok (.jz 2) ∧
  decodeFor .probe 0x8601 = .ok (.pwr .r2 0x01) ∧ decodeFor .probe 0xB400 = .ok .taketx ∧
  decodeFor .cpu 0x0000 = .error .reservedOpcode ∧ decodeFor .cpu 0x5141 = .error .nonzeroUnusedField ∧
  decodeFor .cpu 0xA001 = .error .nonzeroUnusedField ∧ decodeFor .cpu 0xA000 = .error .wrongAgent ∧
  decodeFor .probe 0x4800 = .error .wrongAgent

/-- The pseudo-operations are plain words (R94, R95), which R94 marks as derived. -/
def Obligations.PseudoOperationsExpand : Prop :=
  ∀ at_ skip b : Byte,
    Pseudo.waitrx.expand at_ = [.enrx, .jz at_] ∧ (Pseudo.tryrecv skip).expand at_ = [.poll, .jz skip, .recv] ∧
    Pseudo.waitbyte.expand at_ = [.poll, .jz at_] ∧
    (Pseudo.getc.expand at_).map encode = [0x4C00] ∧
    ((Pseudo.putc b).expand at_).map encode = [0x5000 ||| b.setWidth 16] ∧
    (Pseudo.putcr.expand at_).map encode = [0x5400]

/-! ### Reset -/

/-- The state after power-on reset, whatever the configuration (R41, R250). -/
def Obligations.ResetLeavesSpecValues : Prop :=
  ∀ c : Config,
    (State.resetOf c).regs.get .r0 = .byte 0x00 ∧ (State.resetOf c).regs.get .r1 = .unwritten ∧
    (State.resetOf c).regs.get .r2 = .byte 0x00 ∧ (State.resetOf c).regs.get .r3 = .unwritten ∧
    (State.resetOf c).res = .unwritten ∧ (State.resetOf c).pres = .unwritten ∧
    (State.resetOf c).pc = 0 ∧ (State.resetOf c).halted = false ∧
    (State.resetOf c).cur = .idle ∧ (State.resetOf c).pcur = .idle ∧
    (State.resetOf c).clog = [] ∧ (State.resetOf c).plog = [] ∧ (State.resetOf c).history = [] ∧
    ∀ d : Dir, chanState c (State.resetOf c).regs d = .disabled

/-- The invariants hold after reset, and with any program of legal length, schedule and interleaving loaded (R23, R250). -/
def Obligations.ResetMeetsInvariants : Prop :=
  ∀ (c : Config) (prog psched : List CmdWord) (turns : List Agent), programWf prog = true →
    ((State.resetOf c).load prog psched turns).Inv ∧ ((State.resetOf c).load prog psched turns).Coherent ∧
    ((State.resetOf c).load prog psched turns).RxFullOnlyEnabled

/-! ### The step -/

/-- The step belongs to the agent the interleaving names next, and to the free value's where it names none; the turn is used up
(R67, R88; the list and the counter are the model's, log 3). -/
def Obligations.StepFollowsInterleaving : Prop :=
  (∀ (s : State) (a : Agent) (ts : List Agent), s.turns = a :: ts → step s = agentStep a { s with turns := ts }) ∧
  (∀ s : State, s.turns = [] → step s = agentStep (Config.freeTurn s.turnNo) { s with turnNo := s.turnNo + 1 })

/-- The CPU agent's step: none when halted, the recorded operation's phase when one is in progress, else fetch, decode, first phase,
with the outcomes of a failed fetch and of a refused decode (R204, R224, R226). That a turn without a step changes nothing is log 4, and
that a failed fetch records no command word is log 8: both are the model's. -/
def Obligations.CpuStepRunsDecodedWord : Prop :=
  (∀ s : State, s.halted = true → agentStep .cpu s = .next s) ∧
  (∀ (s : State) (op : Instr) (ph : CpuPhase) (lat : Content), s.halted = false → s.cur = .busy op ph lat →
    agentStep .cpu s = exec op s) ∧
  (∀ s : State, s.halted = false → s.cur = .idle → s.prog.length ≤ s.pc →
    agentStep .cpu s = .fault (.pcOutOfProgram ⟨.cpu, none, some s.pc, none⟩)) ∧
  (∀ (s : State) (w : CmdWord) (i : Instr), s.halted = false → s.cur = .idle → s.prog[s.pc]? = some w →
    decodeFor .cpu w = .ok i → agentStep .cpu s = exec i s) ∧
  (∀ (s : State) (w : CmdWord) (e : DecodeError), s.halted = false → s.cur = .idle → s.prog[s.pc]? = some w →
    decodeFor .cpu w = .error e → agentStep .cpu s = .refused (decodeRefusal e))

/-- The probe agent's step: the action in progress, else the next word of its schedule, which it takes off; no action left, no step
(R24, R84, R88). -/
def Obligations.ProbeStepRunsDecodedWord : Prop :=
  (∀ (s : State) (op : Instr) (ph : ProbePhase) (lat : Content), s.pcur = .busy op ph lat → agentStep .probe s = exec op s) ∧
  (∀ s : State, s.pcur = .idle → s.psched = [] → agentStep .probe s = .next s) ∧
  (∀ (s : State) (w : CmdWord) (ws : List CmdWord) (i : Instr), s.pcur = .idle → s.psched = w :: ws →
    decodeFor .probe w = .ok i → agentStep .probe s = exec i { s with psched := ws }) ∧
  (∀ (s : State) (w : CmdWord) (ws : List CmdWord) (e : DecodeError), s.pcur = .idle → s.psched = w :: ws →
    decodeFor .probe w = .error e → agentStep .probe s = .refused (decodeRefusal e))

/-- A command word placed for the next step is the one that runs: fetched at `pc` by the CPU agent, or taken first from its schedule by
the probe agent (R23, R88, R204; log 5). -/
def Obligations.PlacedWordRunsNext : Prop :=
  ∀ (s : State) (i : Instr),
    (i.agent = .cpu → step (s.withFetchWord 16 (encode i).toNat) =
      exec i { s with prog := placeWord s.prog s.pc (encode i), cur := .idle, halted := false }) ∧
    (i.agent = .probe → step (s.withFetchWord 16 (encode i).toNat) = exec i { s with pcur := .idle })

/-! ### Invariants of every step -/

/-- Every step keeps the machine's invariant: a legal program, a `pc` that never passes 256, and records in `cur` and `pcur` that are
phases of the operation in progress (R23, R24, R204). -/
def Obligations.StepKeepsInv : Prop :=
  ∀ s t : State, s.Inv → step s = .next t → t.Inv

/-- Every step keeps the registers equal to what the history of accesses left since reset, and every read equal to the latest byte
before it: one total order, no stale and no invented byte (R33, R71, R72). -/
def Obligations.StepKeepsHistoryCoherent : Prop :=
  ∀ s t : State, s.Coherent → step s = .next t → t.Coherent

/-- While no raw write, attach, detach or status clear is used, the bytes the firmware sends are the bytes the probe takes followed by
the one pending, in order: none is lost, doubled or reordered (R73, R152). -/
def Obligations.TxSlotNeverLosesAByte : Prop :=
  ∀ s t : State, s.TxSlot → step s = .next t → t.TxSlot

/-- The same of RX: the bytes the probe delivers are the bytes the firmware receives followed by the one pending (R73, R152). -/
def Obligations.RxSlotNeverLosesAByte : Prop :=
  ∀ s t : State, s.RxSlot → step s = .next t → t.RxSlot

/-- The block that a probe has attached in both directions after reset: with any program and schedule that keep to the protocol from then
on, the two steps of the attaches lead to a state that meets both slots' invariants and is coherent with its history (R152, R172, R174).
That the words and turns are loaded from outside is log 5. -/
def Obligations.AttachedBlockMeetsSlots : Prop :=
  ∀ (c : Config) (prog psched : List CmdWord) (turns : List Agent),
    programWf prog = true → wordsAvoid breaksSlot prog = true → wordsAvoid breaksSlot psched = true →
    (c.variant = .C → c.statusSetOnCpuWrite = true) →
    ∃ t u, step ((State.resetOf c).load prog (0xA000 :: 0xA800 :: psched) (.probe :: .probe :: turns)) = .next t ∧
      step t = .next u ∧ u.TxSlot ∧ u.RxSlot ∧ u.Coherent ∧ u.psched = psched ∧ u.turns = turns ∧
      ∀ d, chanState u.cfg u.regs d = .enabledEmpty

/-- Without raw writes RX full is never set while RX is disabled, whatever the interleaving (R142's condition, C2). -/
def Obligations.ProtocolKeepsRxFullOnlyEnabled : Prop :=
  ∀ s t : State, s.RxFullOnlyEnabled ∧ s.avoids rawWrite = true → step s = .next t →
    t.RxFullOnlyEnabled ∧ t.avoids rawWrite = true

/-- The configuration and the program are never written (R3, R23). -/
def Obligations.ConfigAndProgramAreFixed : Prop :=
  ∀ s t : State, step s = .next t → t.cfg = s.cfg ∧ t.prog = s.prog

/-! ### Frames -/

/-- Every operation leaves alone each register it is not given to write, in every phase, form and variant (R32, R34, R39). -/
def Obligations.OnlyNamedRegistersChange : Prop :=
  ∀ (i : Instr) (s t : State) (j : RegIx), exec i s = .next t → mayWrite s.cfg i j = false → t.regs.get j = s.regs.get j

/-- A CPU operation leaves the probe agent's state alone; `res` changes only in an operation that returns a value, `clog` only in
`RECV`, `halted` only in `HALT` (R21, R22, R23). -/
def Obligations.CpuOperationFrame : Prop :=
  ∀ (i : Instr) (s t : State), i.agent = .cpu → exec i s = .next t →
    t.pres = s.pres ∧ t.plog = s.plog ∧ t.pcur = s.pcur ∧ t.psched = s.psched ∧
    t.cfg = s.cfg ∧ t.prog = s.prog ∧ t.turns = s.turns ∧ t.turnNo = s.turnNo ∧
    (i ≠ .halt → t.halted = s.halted) ∧ (i ≠ .recv → t.clog = s.clog) ∧
    ((∃ r m, i = .cwr r m ∨ i = .cbs r m ∨ i = .cbc r m) ∨ i = .lsettx ∨ i = .lclrrx ∨ i = .xmitr ∨ i = .halt ∨
      (∃ b, i = .lwrtx b ∨ i = .xmit b ∨ i = .jmp b ∨ i = .jz b ∨ i = .jnz b) → t.res = s.res)

/-- A probe action leaves the CPU agent's state alone; `pres` changes only in `PRD` and `TAKETX`, `plog` only in `TAKETX` (R22, R66). -/
def Obligations.ProbeActionFrame : Prop :=
  ∀ (i : Instr) (s t : State), i.agent = .probe → exec i s = .next t →
    t.res = s.res ∧ t.clog = s.clog ∧ t.pc = s.pc ∧ t.halted = s.halted ∧ t.cur = s.cur ∧ t.psched = s.psched ∧
    t.cfg = s.cfg ∧ t.prog = s.prog ∧ t.turns = s.turns ∧ t.turnNo = s.turnNo ∧
    (i ≠ .taketx → t.plog = s.plog) ∧ (i ≠ .taketx → (∀ r, i ≠ .prd r) → t.pres = s.pres)

/-- `done` moves `pc` by one and leaves the CPU agent idle; a phase change or a spin leaves `pc` alone (R10, R204). -/
def Obligations.PcMovesOnlyWhenDone : Prop :=
  ∀ (i : Instr) (s t : State), i.agent = .cpu → i ≠ .halt → (∀ b, i ≠ .jmp b ∧ i ≠ .jz b ∧ i ≠ .jnz b) → exec i s = .next t →
    (t.cur = .idle ∧ t.pc = s.pc + 1) ∨ (∃ ph lat, t.cur = .busy i ph lat ∧ t.pc = s.pc)

/-- A phase makes at most one register access, and the history grows by that access alone, under its agent's name (R11, R40, R64). -/
def Obligations.OnePhaseOneAccess : Prop :=
  ∀ (i : Instr) (s t : State), exec i s = .next t →
    t.history = s.history ∨ ∃ e : Event, e.agent = i.agent ∧ t.history = s.history ++ [e]

/-! ### Channels and ownership -/

/-- Outside raw writes a channel comes into a state it was not in only by the actors `mayMoveTo` names: those of R36's table, and in
C, where `FLAGS` is written whole, an attach over a stale status (R174) and `PUTRX` (R176), which may bring TX into either enabled state.
DISABLED is entered only by a detach. -/
def Obligations.ChannelMovesOnlyByItsActors : Prop :=
  ∀ (i : Instr) (s t : State) (d : Dir), rawWrite i = false → exec i s = .next t →
    chanState t.cfg t.regs d ≠ chanState s.cfg s.regs d → mayMoveTo s.cfg i d (chanState t.cfg t.regs d) = true

/-- Outside raw writes the firmware never changes an enable or `RXD`, never sets RX full and never clears the TX slot; the probe never
writes the TX payload, never sets the TX slot occupied, and clears RX full only by an attach or a detach that reaches RX (R31). -/
def Obligations.EachSideWritesItsOwnFields : Prop :=
  ∀ (i : Instr) (s t : State), rawWrite i = false → exec i s = .next t →
    (i.agent = .cpu →
      (∀ d, chanEn t.cfg t.regs d = chanEn s.cfg s.regs d) ∧ t.regs.get .r1 = s.regs.get .r1 ∧
      (chanFull t.cfg t.regs .rx = true → chanFull s.cfg s.regs .rx = true) ∧
      (chanFull s.cfg s.regs .tx = true → chanFull t.cfg t.regs .tx = true)) ∧
    (i.agent = .probe →
      t.regs.get .r3 = s.regs.get .r3 ∧ (chanFull t.cfg t.regs .tx = true → chanFull s.cfg s.regs .tx = true) ∧
      (chanFull s.cfg s.regs .rx = true → chanFull t.cfg t.regs .rx = false →
        attaches s.cfg .rx i = true ∨ detaches s.cfg .rx i = true))

/-- A conforming probe's schedule holds no raw write, at no point of a run of it either; no other probe action leaves register 0 at
anything but what it was, 0x00, enabled and empty, or enabled and full; and the ledger of what is attached follows the enable flags
through every action it allows (R190, R265; the ledger in C is log 14, and what a run is given is log 16). -/
def Obligations.ConformingProbeWritesOnlyProtocolValues : Prop :=
  (∀ (c : Config) (ws : List CmdWord), conformingSchedule c ws = true → wordsAvoid rawWrite ws = true) ∧
  (∀ (f : Nat → Feed) (r : Nat → State), ConformingRun f r → ∀ n, wordsAvoid rawWrite (r n).psched = true) ∧
  (∀ (i : Instr) (s t : State), i.agent = .probe → rawWrite i = false → exec i s = .next t →
    t.regs.r0 = s.regs.r0 ∨ t.regs.r0 = 0x00 ∨ t.regs.r0 = enMask s.cfg ∨ t.regs.r0 = enMask s.cfg ||| 0x01) ∧
  (∀ (l : Ledger) (i : Instr) (s t : State), l.allows i = true → exec i s = .next t →
    (∀ d, chanEn s.cfg s.regs d = l.on d) → ∀ d, chanEn t.cfg t.regs d = (l.after s.cfg i).on d)

/-! ### CPU-port accesses -/

/-- `CRD r` (R100). -/
def Obligations.CrdReadsRegister : Prop :=
  ∀ (s : State) (r : RegIx),
    encode (.crd r) = 0x0400 ||| (r.bits.setWidth 16 <<< 8) ∧
    (s.cfg.variant = .C ∧ r = .r3 → exec (.crd r) s = .refused .unmodelledRead) ∧
    (¬ (s.cfg.variant = .C ∧ r = .r3) → s.regs.get r = .unwritten →
      exec (.crd r) s = .fault (.unwrittenRead ⟨.cpu, some (encode (.crd r)), some s.pc, some r⟩)) ∧
    (∀ v, ¬ (s.cfg.variant = .C ∧ r = .r3) → s.regs.get r = .byte v →
      exec (.crd r) s = .next
        { s with res := .byte v, history := s.history ++ [⟨.cpu, .rd, r, v⟩], cur := .idle, pc := s.pc + 1 })

/-- `CWR r, #imm` (R101), with the side effect of R34. -/
def Obligations.CwrWritesRegister : Prop :=
  ∀ (s : State) (r : RegIx) (v : Byte),
    encode (.cwr r v) = 0x0800 ||| (r.bits.setWidth 16 <<< 8) ||| v.setWidth 16 ∧
    (s.cfg.variant = .C ∧ r = .r2 → exec (.cwr r v) s = .refused .readOnlyWrite) ∧
    (¬ (s.cfg.variant = .C ∧ r = .r2) →
      exec (.cwr r v) s = .next
        { s with
          regs :=
            if s.cfg.variant = .C ∧ r = .r3 ∧ s.cfg.statusSetOnCpuWrite = true then { s.regs.set r v with r2 := 0x01 }
            else s.regs.set r v
          history := s.history ++ [⟨.cpu, .wr, r, v⟩], cur := .idle, pc := s.pc + 1 })

/-- `CBS r, #m` (R102) and `CBC r, #m` (R103): one atomic read-modify-write each (R65). -/
def Obligations.BitOperationsModifyAtomically : Prop :=
  ∀ (s : State) (r : RegIx) (m : Byte),
    encode (.cbs r m) = 0x0C00 ||| (r.bits.setWidth 16 <<< 8) ||| m.setWidth 16 ∧
    encode (.cbc r m) = 0x1000 ||| (r.bits.setWidth 16 <<< 8) ||| m.setWidth 16 ∧
    (s.cfg.variant = .C ∧ r = .r2 →
      exec (.cbs r m) s = .refused .readOnlyWrite ∧ exec (.cbc r m) s = .refused .readOnlyWrite) ∧
    (s.cfg.variant = .C ∧ r = .r3 →
      exec (.cbs r m) s = .refused .unmodelledRead ∧ exec (.cbc r m) s = .refused .unmodelledRead) ∧
    (¬ (s.cfg.variant = .C ∧ (r = .r2 ∨ r = .r3)) → s.regs.get r = .unwritten →
      exec (.cbs r m) s = .fault (.unwrittenRead ⟨.cpu, some (encode (.cbs r m)), some s.pc, some r⟩) ∧
      exec (.cbc r m) s = .fault (.unwrittenRead ⟨.cpu, some (encode (.cbc r m)), some s.pc, some r⟩)) ∧
    (∀ v, ¬ (s.cfg.variant = .C ∧ (r = .r2 ∨ r = .r3)) → s.regs.get r = .byte v →
      exec (.cbs r m) s = .next
        { s with
          regs := s.regs.set r (v ||| m), history := s.history ++ [⟨.cpu, .rmw, r, v ||| m⟩], cur := .idle, pc := s.pc + 1 } ∧
      exec (.cbc r m) s = .next
        { s with
          regs := s.regs.set r (v &&& ~~~m), history := s.history ++ [⟨.cpu, .rmw, r, v &&& ~~~m⟩], cur := .idle,
          pc := s.pc + 1 })

/-! ### Layout primitives and one-phase channel operations -/

/-- `LENRX` (R120) and `ENRX` (R140): the enable bit of register 0, the full bit and the unused bits ignored. -/
def Obligations.RxEnableTests : Prop :=
  ∀ (s : State) (i : Instr), i = .lenrx ∨ i = .enrx →
    encode .lenrx = 0x2000 ∧ encode .enrx = 0x4000 ∧
    (s.cfg.variant = .A ∨ s.cfg.variant = .B →
      exec i s = .next
        { s with
          res := .byte (if s.regs.r0 &&& 0x02 ≠ 0 then 0x01 else 0x00)
          history := s.history ++ [⟨.cpu, .rd, .r0, s.regs.r0⟩], cur := .idle, pc := s.pc + 1 }) ∧
    (s.cfg.variant = .C →
      exec i s = .next
        { s with
          res := .byte (if s.regs.r0 &&& cEnMask s.cfg ≠ 0 then 0x01 else 0x00)
          history := s.history ++ [⟨.cpu, .rd, .r0, s.regs.r0⟩], cur := .idle, pc := s.pc + 1 })

/-- `LENTX` (R121) and `ENTX` (R141): the enable bit of `TXF` in A and B, and `C_EN` of `FLAGS` in C (R30). -/
def Obligations.TxEnableTests : Prop :=
  ∀ (s : State) (i : Instr), i = .lentx ∨ i = .entx →
    encode .lentx = 0x2400 ∧ encode .entx = 0x4400 ∧
    (s.cfg.variant = .A ∨ s.cfg.variant = .B →
      exec i s = .next
        { s with
          res := .byte (if s.regs.r2 &&& 0x02 ≠ 0 then 0x01 else 0x00)
          history := s.history ++ [⟨.cpu, .rd, .r2, s.regs.r2⟩], cur := .idle, pc := s.pc + 1 }) ∧
    (s.cfg.variant = .C →
      exec i s = .next
        { s with
          res := .byte (if s.regs.r0 &&& cEnMask s.cfg ≠ 0 then 0x01 else 0x00)
          history := s.history ++ [⟨.cpu, .rd, .r0, s.regs.r0⟩], cur := .idle, pc := s.pc + 1 })

/-- `LFULRX` (R122): the bit test in every variant. `LBSYTX` (R123): the full bit in A and B, the whole byte in C. -/
def Obligations.FullConditionTests : Prop :=
  ∀ s : State,
    encode .lfulrx = 0x2800 ∧ encode .lbsytx = 0x2C00 ∧
    exec .lfulrx s = .next
      { s with
        res := .byte (if s.regs.r0 &&& 0x01 ≠ 0 then 0x01 else 0x00)
        history := s.history ++ [⟨.cpu, .rd, .r0, s.regs.r0⟩], cur := .idle, pc := s.pc + 1 } ∧
    (s.cfg.variant = .A ∨ s.cfg.variant = .B →
      exec .lbsytx s = .next
        { s with
          res := .byte (if s.regs.r2 &&& 0x01 ≠ 0 then 0x01 else 0x00)
          history := s.history ++ [⟨.cpu, .rd, .r2, s.regs.r2⟩], cur := .idle, pc := s.pc + 1 }) ∧
    (s.cfg.variant = .C →
      exec .lbsytx s = .next
        { s with
          res := .byte (if s.regs.r2 ≠ 0 then 0x01 else 0x00)
          history := s.history ++ [⟨.cpu, .rd, .r2, s.regs.r2⟩], cur := .idle, pc := s.pc + 1 })

/-- `LSETTX` (R124): the atomic set of `TXF.FULL`, with no enable test; refused in C. `LCLRRX` (R125): RX full cleared atomically,
every other bit as it was, in every variant. -/
def Obligations.FullPrimitivesSetAndClear : Prop :=
  ∀ s : State,
    encode .lsettx = 0x3000 ∧ encode .lclrrx = 0x3400 ∧
    (s.cfg.variant = .C → exec .lsettx s = .refused .notInVariant) ∧
    (s.cfg.variant = .A ∨ s.cfg.variant = .B →
      exec .lsettx s = .next
        { s with
          regs := { s.regs with r2 := s.regs.r2 ||| 0x01 }
          history := s.history ++ [⟨.cpu, .rmw, .r2, s.regs.r2 ||| 0x01⟩], cur := .idle, pc := s.pc + 1 }) ∧
    exec .lclrrx s = .next
      { s with
        regs := { s.regs with r0 := s.regs.r0 &&& ~~~0x01 }
        history := s.history ++ [⟨.cpu, .rmw, .r0, s.regs.r0 &&& ~~~0x01⟩], cur := .idle, pc := s.pc + 1 }

/-- `LRDRX` (R126): the stored byte, whatever the flags say; a fault when `RXD` is `⊥`. `LWRTX #b` (R127): the TX payload, and in C
the status with it (R34). -/
def Obligations.PayloadPrimitivesReadAndWrite : Prop :=
  ∀ (s : State) (b : Byte),
    encode .lrdrx = 0x3800 ∧ encode (.lwrtx b) = 0x3C00 ||| b.setWidth 16 ∧
    (s.regs.r1 = .unwritten →
      exec .lrdrx s = .fault (.unwrittenRead ⟨.cpu, some 0x3800, some s.pc, some .r1⟩)) ∧
    (∀ v, s.regs.r1 = .byte v →
      exec .lrdrx s = .next
        { s with res := .byte v, history := s.history ++ [⟨.cpu, .rd, .r1, v⟩], cur := .idle, pc := s.pc + 1 }) ∧
    exec (.lwrtx b) s = .next
      { s with
        regs :=
          if s.cfg.variant = .C ∧ s.cfg.statusSetOnCpuWrite = true then { s.regs with r3 := .byte b, r2 := 0x01 }
          else { s.regs with r3 := .byte b }
        history := s.history ++ [⟨.cpu, .wr, .r3, b⟩], cur := .idle, pc := s.pc + 1 }

/-- `POLL` (R142): the full bit in A and C, whole-byte equality with `enable|full` in B. -/
def Obligations.PollTestsByVariant : Prop :=
  ∀ s : State,
    encode .poll = 0x4800 ∧
    (s.cfg.variant = .A ∨ s.cfg.variant = .C →
      exec .poll s = .next
        { s with
          res := .byte (if s.regs.r0 &&& 0x01 ≠ 0 then 0x01 else 0x00)
          history := s.history ++ [⟨.cpu, .rd, .r0, s.regs.r0⟩], cur := .idle, pc := s.pc + 1 }) ∧
    (s.cfg.variant = .B →
      exec .poll s = .next
        { s with
          res := .byte (if s.regs.r0 = 0x03 then 0x01 else 0x00)
          history := s.history ++ [⟨.cpu, .rd, .r0, s.regs.r0⟩], cur := .idle, pc := s.pc + 1 })

/-- `poll()` returns false while RX is disabled: always in B, and in A and C where full is set only while enabled (R142, C2). -/
def Obligations.PollFalseWhileDisabled : Prop :=
  ∀ s : State, s.cfg.variant = .B ∨ s.RxFullOnlyEnabled → chanEn s.cfg s.regs .rx = false →
    exec .poll s = .next
      { s with
        res := .byte 0x00, history := s.history ++ [⟨.cpu, .rd, .r0, s.regs.r0⟩], cur := .idle, pc := s.pc + 1 }

/-! ### RECV -/

/-- The phases of `RECV` (R144). -/
def Obligations.RecvPhases : Prop :=
  ∀ s : State,
    encode .recv = 0x4C00 ∧
    ((s.cur = .idle ∨ ∃ lat, s.cur = .busy .recv .v0 lat) →
      exec .recv s = .next
        { s with
          cur := .busy .recv (if pollTest s.cfg s.regs.r0 then .v1 else .v0) .unwritten
          history := s.history ++ [⟨.cpu, .rd, .r0, s.regs.r0⟩] }) ∧
    (∀ lat, s.cur = .busy .recv .v1 lat → s.regs.r1 = .unwritten →
      exec .recv s = .fault (.unwrittenRead ⟨.cpu, some 0x4C00, some s.pc, some .r1⟩)) ∧
    (∀ lat v, s.cur = .busy .recv .v1 lat → s.regs.r1 = .byte v →
      exec .recv s = .next
        { s with cur := .busy .recv .v2 (.byte v), history := s.history ++ [⟨.cpu, .rd, .r1, v⟩] }) ∧
    (∀ v, s.cur = .busy .recv .v2 (.byte v) →
      exec .recv s = .next
        { s with
          regs := { s.regs with r0 := s.regs.r0 &&& ~~~0x01 }
          history := s.history ++ [⟨.cpu, .rmw, .r0, s.regs.r0 &&& ~~~0x01⟩]
          res := .byte v, clog := s.clog ++ [v], cur := .idle, pc := s.pc + 1 })

/-- A byte that is there is received in three phases: returned, logged once, and RX full cleared (R143, R144). -/
def Obligations.RecvConsumesOnce : Prop :=
  ∀ (s : State) (v : Byte), s.cur = .idle → pollTest s.cfg s.regs.r0 = true → s.regs.r1 = .byte v →
    phases 3 .recv s = .next
      { s with
        regs := { s.regs with r0 := s.regs.r0 &&& ~~~0x01 }
        res := .byte v, clog := s.clog ++ [v], pc := s.pc + 1
        history := s.history ++
          [⟨.cpu, .rd, .r0, s.regs.r0⟩, ⟨.cpu, .rd, .r1, v⟩, ⟨.cpu, .rmw, .r0, s.regs.r0 &&& ~~~0x01⟩] }

/-- On any run, while no delivery makes the poll true, `RECV` never leaves V0 and reads register 0 afresh at each of its turns; and a jump
to itself never leaves its index and makes no access. Both spin for ever, and hang where the run is fair (R143, R200, R268; what a run
and a hang are is logs 13 and 16). -/
def Obligations.RecvSpinsWithoutDelivery : Prop :=
  ∀ (r : Nat → State) (n : Nat), IsRun r → (r n).Inv →
    ((r n).cur = .busy .recv .v0 .unwritten → (∀ m, n ≤ m → pollTest (r m).cfg (r m).regs.r0 = false) →
      SpinsForever r ∧ (CpuFair r → Hangs r) ∧ ∀ m, n ≤ m →
        (r m).cur = .busy .recv .v0 .unwritten ∧ (r m).clog = (r n).clog ∧
        ((r m).turn = .cpu → (r (m + 1)).history = (r m).history ++ [⟨.cpu, .rd, .r0, (r m).regs.r0⟩])) ∧
    ((r n).atSelfJump = true →
      SpinsForever r ∧ (CpuFair r → Hangs r) ∧ ∀ m, n ≤ m →
        (r m).atSelfJump = true ∧ (r m).pc = (r n).pc ∧
        ((r m).turn = .cpu → (r (m + 1)).history = (r m).history ∧ (r (m + 1)).regs = (r m).regs))

/-- `POLL` is true exactly when the V0 of a `RECV` over the same registers goes on to V1; and the enable bit alone flips it in B and
not in A (R151, which the spec marks as derived). -/
def Obligations.PollAgreesWithRecv : Prop :=
  (∀ s t u : State, exec .poll s = .next t → u.cfg = t.cfg → u.regs = t.regs →
    (u.cur = .idle ∨ ∃ lat, u.cur = .busy .recv .v0 lat) →
    (t.res = .byte 0x01 ∨ t.res = .byte 0x00) ∧
    (t.res = .byte 0x01 ↔ ∃ x, exec .recv u = .next x ∧ x.cur = .busy .recv .v1 .unwritten)) ∧
  (∀ c : Config, c.variant = .B → pollTest c 0x01 = false ∧ pollTest c 0x03 = true) ∧
  (∀ c : Config, c.variant = .A → pollTest c 0x01 = true ∧ pollTest c 0x03 = true)

/-! ### XMIT and XMITR -/

/-- The phases of `XMIT` in Variants A and B (R146). -/
def Obligations.XmitPhasesAB : Prop :=
  ∀ (s : State) (b : Byte), s.cfg.variant = .A ∨ s.cfg.variant = .B →
    encode (.xmit b) = 0x5000 ||| b.setWidth 16 ∧
    ((s.cur = .idle ∨ ∃ lat, s.cur = .busy (.xmit b) .t0 lat) →
      exec (.xmit b) s = .next
        (if s.regs.r2 &&& 0x02 = 0 then
          { s with history := s.history ++ [⟨.cpu, .rd, .r2, s.regs.r2⟩], cur := .idle, pc := s.pc + 1 }
        else if s.regs.r2 &&& 0x01 ≠ 0 then
          { s with history := s.history ++ [⟨.cpu, .rd, .r2, s.regs.r2⟩], cur := .busy (.xmit b) .t0 .unwritten }
        else
          { s with history := s.history ++ [⟨.cpu, .rd, .r2, s.regs.r2⟩], cur := .busy (.xmit b) .t1 .unwritten })) ∧
    (∀ lat, s.cur = .busy (.xmit b) .t1 lat →
      exec (.xmit b) s = .next
        { s with
          regs := { s.regs with r3 := .byte b }
          history := s.history ++ [⟨.cpu, .wr, .r3, b⟩], cur := .busy (.xmit b) .t2 .unwritten }) ∧
    (∀ lat, s.cur = .busy (.xmit b) .t2 lat →
      exec (.xmit b) s = .next
        { s with
          regs := { s.regs with r2 := s.regs.r2 ||| 0x01 }
          history := s.history ++ [⟨.cpu, .rmw, .r2, s.regs.r2 ||| 0x01⟩], cur := .idle, pc := s.pc + 1 })

/-- The phases of `XMIT` in Variant C (R147), with the side effect of R34. -/
def Obligations.XmitPhasesC : Prop :=
  ∀ (s : State) (b : Byte), s.cfg.variant = .C →
    encode (.xmit b) = 0x5000 ||| b.setWidth 16 ∧
    ((s.cur = .idle ∨ ∃ lat, s.cur = .busy (.xmit b) .t0 lat) →
      exec (.xmit b) s = .next
        (if s.regs.r0 &&& cEnMask s.cfg = 0 then
          { s with history := s.history ++ [⟨.cpu, .rd, .r0, s.regs.r0⟩], cur := .idle, pc := s.pc + 1 }
        else
          { s with history := s.history ++ [⟨.cpu, .rd, .r0, s.regs.r0⟩], cur := .busy (.xmit b) .ts .unwritten })) ∧
    (∀ lat, s.cur = .busy (.xmit b) .ts lat →
      exec (.xmit b) s = .next
        { s with
          history := s.history ++ [⟨.cpu, .rd, .r2, s.regs.r2⟩]
          cur := .busy (.xmit b) (if s.regs.r2 ≠ 0 then .t0 else .t1) .unwritten }) ∧
    (∀ lat, s.cur = .busy (.xmit b) .t1 lat →
      exec (.xmit b) s = .next
        { s with
          regs :=
            if s.cfg.statusSetOnCpuWrite = true then { s.regs with r3 := .byte b, r2 := 0x01 }
            else { s.regs with r3 := .byte b }
          history := s.history ++ [⟨.cpu, .wr, .r3, b⟩], cur := .idle, pc := s.pc + 1 })

/-- An enabled, empty TX slot takes the byte in three phases: the payload before the mark (R146), the message and its status in one
(R147). `XMITR` does the same with the byte in `res`, which stays as it was (R148). -/
def Obligations.TransmitSendsWhenFree : Prop :=
  ∀ (s : State) (b : Byte) (i : Instr), s.cur = .idle → i = .xmit b ∨ (i = .xmitr ∧ s.res = .byte b) →
    (s.cfg.variant = .A ∨ s.cfg.variant = .B → s.regs.r2 &&& 0x03 = 0x02 →
      phases 3 i s = .next
        { s with
          regs := { s.regs with r3 := .byte b, r2 := s.regs.r2 ||| 0x01 }, pc := s.pc + 1
          history := s.history ++
            [⟨.cpu, .rd, .r2, s.regs.r2⟩, ⟨.cpu, .wr, .r3, b⟩, ⟨.cpu, .rmw, .r2, s.regs.r2 ||| 0x01⟩] }) ∧
    (s.cfg.variant = .C → s.cfg.statusSetOnCpuWrite = true → s.regs.r0 &&& cEnMask s.cfg ≠ 0 → s.regs.r2 = 0x00 →
      phases 3 i s = .next
        { s with
          regs := { s.regs with r3 := .byte b, r2 := 0x01 }, pc := s.pc + 1
          history := s.history ++ [⟨.cpu, .rd, .r0, s.regs.r0⟩, ⟨.cpu, .rd, .r2, 0x00⟩, ⟨.cpu, .wr, .r3, b⟩] })

/-- `XMITR` (R148): a fault while `res` is `⊥`; else the byte of `res` is latched at the first phase, and the phases are those of `XMIT`
with that byte (R146 in A and B, R147 in C), which never read `res` again. -/
def Obligations.XmitrSendsLatchedRes : Prop :=
  ∀ s : State,
    encode .xmitr = 0x5400 ∧
    (s.cur = .idle → s.res = .unwritten →
      exec .xmitr s = .fault (.resUnwritten ⟨.cpu, some 0x5400, some s.pc, none⟩)) ∧
    (∀ b, (s.cur = .idle ∧ s.res = .byte b) ∨ s.cur = .busy .xmitr .t0 (.byte b) →
      (s.cfg.variant = .A ∨ s.cfg.variant = .B →
        exec .xmitr s = .next
          (if s.regs.r2 &&& 0x02 = 0 then
            { s with history := s.history ++ [⟨.cpu, .rd, .r2, s.regs.r2⟩], cur := .idle, pc := s.pc + 1 }
          else
            { s with
              history := s.history ++ [⟨.cpu, .rd, .r2, s.regs.r2⟩]
              cur := .busy .xmitr (if s.regs.r2 &&& 0x01 ≠ 0 then .t0 else .t1) (.byte b) })) ∧
      (s.cfg.variant = .C →
        exec .xmitr s = .next
          (if s.regs.r0 &&& cEnMask s.cfg = 0 then
            { s with history := s.history ++ [⟨.cpu, .rd, .r0, s.regs.r0⟩], cur := .idle, pc := s.pc + 1 }
          else
            { s with history := s.history ++ [⟨.cpu, .rd, .r0, s.regs.r0⟩], cur := .busy .xmitr .ts (.byte b) }))) ∧
    (∀ b, s.cur = .busy .xmitr .ts (.byte b) → s.cfg.variant = .C →
      exec .xmitr s = .next
        { s with
          history := s.history ++ [⟨.cpu, .rd, .r2, s.regs.r2⟩]
          cur := .busy .xmitr (if s.regs.r2 ≠ 0 then .t0 else .t1) (.byte b) }) ∧
    (∀ b, s.cur = .busy .xmitr .t1 (.byte b) →
      (s.cfg.variant = .A ∨ s.cfg.variant = .B →
        exec .xmitr s = .next
          { s with
            regs := { s.regs with r3 := .byte b }
            history := s.history ++ [⟨.cpu, .wr, .r3, b⟩], cur := .busy .xmitr .t2 (.byte b) }) ∧
      (s.cfg.variant = .C →
        exec .xmitr s = .next
          { s with
            regs :=
              if s.cfg.statusSetOnCpuWrite = true then { s.regs with r3 := .byte b, r2 := 0x01 }
              else { s.regs with r3 := .byte b }
            history := s.history ++ [⟨.cpu, .wr, .r3, b⟩], cur := .idle, pc := s.pc + 1 })) ∧
    (∀ b, s.cur = .busy .xmitr .t2 (.byte b) → s.cfg.variant = .A ∨ s.cfg.variant = .B →
      exec .xmitr s = .next
        { s with
          regs := { s.regs with r2 := s.regs.r2 ||| 0x01 }
          history := s.history ++ [⟨.cpu, .rmw, .r2, s.regs.r2 ||| 0x01⟩], cur := .idle, pc := s.pc + 1 })

/-- When the T0 read of `XMIT` finds the enable clear, the operation ends with no write, for every byte (R149,
which the spec marks as derived). -/
def Obligations.XmitDroppedWhileDisabled : Prop :=
  ∀ (s : State) (b : Byte), s.cur = .idle ∨ (∃ lat, s.cur = .busy (.xmit b) .t0 lat) → chanEn s.cfg s.regs .tx = false →
    ∃ i v, exec (.xmit b) s = .next
      { s with history := s.history ++ [⟨.cpu, .rd, i, v⟩], cur := .idle, pc := s.pc + 1 }

/-- A detach while `XMIT` spins ends it in at most two more CPU phases with no write: one from T0, two from a TS that finds the status
busy (R150). -/
def Obligations.DetachCancelsSpinningXmit : Prop :=
  ∀ (s t : State) (b : Byte) (d : Instr) (lat : Content), detaches s.cfg .tx d = true → exec d s = .next t →
    (s.cur = .busy (.xmit b) .t0 lat →
      ∃ h, phases 1 (.xmit b) t = .next { t with history := h, cur := .idle, pc := s.pc + 1 }) ∧
    (s.cfg.variant = .C → s.cur = .busy (.xmit b) .ts lat → s.regs.r2 ≠ 0 →
      ∃ h, phases 2 (.xmit b) t = .next { t with history := h, cur := .idle, pc := s.pc + 1 })

/-- The window after the enable test: a detach there is not seen, and the write lands on the disabled channel, full in A and B, with
the status set in C; the next `ATTTX` discards the stale full in A and B, and not the status in C (R262). -/
def Obligations.WriteAfterDetachLands : Prop :=
  ∀ (s : State) (b : Byte) (lat : Content),
    (s.cfg.variant = .A ∨ s.cfg.variant = .B →
      (s.cur = .busy (.xmit b) .t1 lat →
        ∃ t u v, exec .dettx s = .next t ∧ phases 2 (.xmit b) t = .next u ∧
          u.regs = { s.regs with r3 := .byte b, r2 := 0x01 } ∧ chanState u.cfg u.regs .tx = .disabled ∧
          exec .atttx u = .next v ∧ chanState v.cfg v.regs .tx = .enabledEmpty) ∧
      (s.cur = .busy (.xmit b) .t2 lat →
        ∃ t u v, exec .dettx s = .next t ∧ exec (.xmit b) t = .next u ∧
          u.regs = { s.regs with r2 := 0x01 } ∧ chanState u.cfg u.regs .tx = .disabled ∧
          exec .atttx u = .next v ∧ chanState v.cfg v.regs .tx = .enabledEmpty)) ∧
    (s.cfg.variant = .C → s.cfg.statusSetOnCpuWrite = true → s.cur = .busy (.xmit b) .t1 lat →
      ∃ t u v, exec .dettx s = .next t ∧ exec (.xmit b) t = .next u ∧
        u.regs = { s.regs with r0 := 0x00, r3 := .byte b, r2 := 0x01 } ∧ chanState u.cfg u.regs .tx = .disabled ∧
        exec .atttx u = .next v ∧ chanState v.cfg v.regs .tx = .enabledFull)

/-! ### Control flow -/

/-- `JMP` (R200), `JZ` (R201), `JNZ` (R202): absolute targets, `res` untouched, a fault while `res` is `⊥`. -/
def Obligations.JumpsSetPc : Prop :=
  ∀ (s : State) (t : Byte),
    encode (.jmp t) = 0x6000 ||| t.setWidth 16 ∧ encode (.jz t) = 0x6400 ||| t.setWidth 16 ∧
    encode (.jnz t) = 0x6800 ||| t.setWidth 16 ∧
    exec (.jmp t) s = .next { s with pc := t.toNat, cur := .idle } ∧
    (s.res = .unwritten →
      exec (.jz t) s = .fault (.resUnwritten ⟨.cpu, some (encode (.jz t)), some s.pc, none⟩) ∧
      exec (.jnz t) s = .fault (.resUnwritten ⟨.cpu, some (encode (.jnz t)), some s.pc, none⟩)) ∧
    (∀ v, s.res = .byte v →
      exec (.jz t) s = .next { s with pc := if v = 0x00 then t.toNat else s.pc + 1, cur := .idle } ∧
      exec (.jnz t) s = .next { s with pc := if v ≠ 0x00 then t.toNat else s.pc + 1, cur := .idle })

/-- `HALT` (R203): `pc` stays, no channel state changes, and the CPU agent has no enabled step from then on, whatever the probe does. -/
def Obligations.HaltEndsProgram : Prop :=
  (∀ s : State,
    encode .halt = 0x7C00 ∧ exec .halt s = .next { s with halted := true, cur := .idle } ∧
    ({ s with halted := true, cur := .idle }).cpuEnabled = false) ∧
  (∀ s t : State, s.cpuEnabled = false → step s = .next t → t.cpuEnabled = false)

/-! ### The probe -/

/-- `PRD r` (R170) and `PWR r, #imm` (R171): every register is readable and writable from the probe port, with no side effect. -/
def Obligations.ProbePortReadsAndWrites : Prop :=
  ∀ (s : State) (r : RegIx) (w : Byte),
    encode (.prd r) = 0x8000 ||| (r.bits.setWidth 16 <<< 8) ∧
    encode (.pwr r w) = 0x8400 ||| (r.bits.setWidth 16 <<< 8) ||| w.setWidth 16 ∧
    (s.regs.get r = .unwritten →
      exec (.prd r) s = .fault (.unwrittenRead ⟨.probe, some (encode (.prd r)), none, some r⟩)) ∧
    (∀ v, s.regs.get r = .byte v →
      exec (.prd r) s = .next
        { s with pres := .byte v, history := s.history ++ [⟨.probe, .rd, r, v⟩], pcur := .idle }) ∧
    exec (.pwr r w) s = .next
      { s with regs := s.regs.set r w, history := s.history ++ [⟨.probe, .wr, r, w⟩], pcur := .idle }

/-- `ATTRX` (R172) and `ATTTX` (R174): the whole register is written, enabled and empty; in C both write `FLAGS` and leave
`MSGSTATUS` as it was. -/
def Obligations.AttachWritesEnable : Prop :=
  ∀ s : State,
    encode .attrx = 0xA000 ∧ encode .atttx = 0xA800 ∧
    (s.cfg.variant = .A ∨ s.cfg.variant = .B →
      exec .attrx s = .next
        { s with
          regs := { s.regs with r0 := 0x02 }, history := s.history ++ [⟨.probe, .wr, .r0, 0x02⟩], pcur := .idle } ∧
      exec .atttx s = .next
        { s with
          regs := { s.regs with r2 := 0x02 }, history := s.history ++ [⟨.probe, .wr, .r2, 0x02⟩], pcur := .idle }) ∧
    (s.cfg.variant = .C →
      ∀ i, i = .attrx ∨ i = .atttx → exec i s = .next
        { s with
          regs := { s.regs with r0 := cEnMask s.cfg }
          history := s.history ++ [⟨.probe, .wr, .r0, cEnMask s.cfg⟩], pcur := .idle })

/-- `DETRX` (R173) and `DETTX` (R175): the whole register is cleared; in C both clear `FLAGS`. The payloads and `MSGSTATUS` stay. -/
def Obligations.DetachClearsFlags : Prop :=
  ∀ s : State,
    encode .detrx = 0xA400 ∧ encode .dettx = 0xAC00 ∧
    exec .detrx s = .next
      { s with
        regs := { s.regs with r0 := 0x00 }, history := s.history ++ [⟨.probe, .wr, .r0, 0x00⟩], pcur := .idle } ∧
    (s.cfg.variant = .A ∨ s.cfg.variant = .B →
      exec .dettx s = .next
        { s with
          regs := { s.regs with r2 := 0x00 }, history := s.history ++ [⟨.probe, .wr, .r2, 0x00⟩], pcur := .idle }) ∧
    (s.cfg.variant = .C →
      exec .dettx s = .next
        { s with
          regs := { s.regs with r0 := 0x00 }, history := s.history ++ [⟨.probe, .wr, .r0, 0x00⟩], pcur := .idle })

/-- `PUTRX #b` (R176). -/
def Obligations.PutrxPhases : Prop :=
  ∀ (s : State) (b m : Byte), m = (if s.cfg.variant = .C then cEnMask s.cfg else 0x02) →
    encode (.putrx b) = 0xB000 ||| b.setWidth 16 ∧
    ((s.pcur = .idle ∨ ∃ lat, s.pcur = .busy (.putrx b) .p0 lat) →
      exec (.putrx b) s = .next
        { s with
          history := s.history ++ [⟨.probe, .rd, .r0, s.regs.r0⟩]
          pcur :=
            if s.regs.r0 &&& m = 0 then .idle
            else if s.regs.r0 &&& 0x01 ≠ 0 then .busy (.putrx b) .p0 .unwritten
            else .busy (.putrx b) .p1 .unwritten }) ∧
    (∀ lat, s.pcur = .busy (.putrx b) .p1 lat →
      exec (.putrx b) s = .next
        { s with
          regs := { s.regs with r1 := .byte b }
          history := s.history ++ [⟨.probe, .wr, .r1, b⟩], pcur := .busy (.putrx b) .p2 .unwritten }) ∧
    (∀ lat, s.pcur = .busy (.putrx b) .p2 lat →
      exec (.putrx b) s = .next
        { s with
          regs := { s.regs with r0 := m ||| 0x01 }
          history := s.history ++ [⟨.probe, .wr, .r0, m ||| 0x01⟩], pcur := .idle })

/-- `TAKETX` in Variants A and B (R177). -/
def Obligations.TaketxPhasesAB : Prop :=
  ∀ s : State, s.cfg.variant = .A ∨ s.cfg.variant = .B →
    encode .taketx = 0xB400 ∧
    ((s.pcur = .idle ∨ ∃ lat, s.pcur = .busy .taketx .p0 lat) →
      exec .taketx s = .next
        { s with
          history := s.history ++ [⟨.probe, .rd, .r2, s.regs.r2⟩]
          pcur :=
            if s.regs.r2 &&& 0x02 = 0 then .idle
            else if s.regs.r2 &&& 0x01 = 0 then .busy .taketx .p0 .unwritten
            else .busy .taketx .p1 .unwritten }) ∧
    (∀ lat, s.pcur = .busy .taketx .p1 lat → s.regs.r3 = .unwritten →
      exec .taketx s = .fault (.unwrittenRead ⟨.probe, some 0xB400, none, some .r3⟩)) ∧
    (∀ lat v, s.pcur = .busy .taketx .p1 lat → s.regs.r3 = .byte v →
      exec .taketx s = .next
        { s with history := s.history ++ [⟨.probe, .rd, .r3, v⟩], pcur := .busy .taketx .p2 (.byte v) }) ∧
    (∀ v, s.pcur = .busy .taketx .p2 (.byte v) →
      exec .taketx s = .next
        { s with
          regs := { s.regs with r2 := 0x02 }, history := s.history ++ [⟨.probe, .wr, .r2, 0x02⟩]
          pres := .byte v, plog := s.plog ++ [v], pcur := .idle })

/-- `TAKETX` in Variant C (R178): refused when a CPU write of `MSG` does not set the status. -/
def Obligations.TaketxPhasesC : Prop :=
  ∀ s : State, s.cfg.variant = .C →
    encode .taketx = 0xB400 ∧
    (s.cfg.statusSetOnCpuWrite = false → exec .taketx s = .refused .notInVariant) ∧
    (s.cfg.statusSetOnCpuWrite = true →
      ((s.pcur = .idle ∨ ∃ lat, s.pcur = .busy .taketx .p0 lat) →
        exec .taketx s = .next
          { s with
            history := s.history ++ [⟨.probe, .rd, .r2, s.regs.r2⟩]
            pcur := if s.regs.r2 = 0 then .busy .taketx .p0 .unwritten else .busy .taketx .p1 .unwritten }) ∧
      (∀ lat, s.pcur = .busy .taketx .p1 lat → s.regs.r3 = .unwritten →
        exec .taketx s = .fault (.unwrittenRead ⟨.probe, some 0xB400, none, some .r3⟩)) ∧
      (∀ lat v, s.pcur = .busy .taketx .p1 lat → s.regs.r3 = .byte v →
        exec .taketx s = .next
          { s with history := s.history ++ [⟨.probe, .rd, .r3, v⟩], pcur := .busy .taketx .p2 (.byte v) }) ∧
      (∀ v, s.pcur = .busy .taketx .p2 (.byte v) →
        exec .taketx s = .next
          { s with
            regs := { s.regs with r2 := 0x00 }, history := s.history ++ [⟨.probe, .wr, .r2, 0x00⟩]
            pres := .byte v, plog := s.plog ++ [v], pcur := .idle }))

/-- A byte put on an attached, empty channel makes `POLL` true in every variant, and a byte taken empties the TX slot: the transfer
actions complete in three phases (R176 to R178). -/
def Obligations.TransferActionsComplete : Prop :=
  (∀ (s : State) (b : Byte), s.pcur = .idle → chanState s.cfg s.regs .rx = .enabledEmpty →
    ∃ t, phases 3 (.putrx b) s = .next t ∧ t.regs.get .r1 = .byte b ∧ t.pcur = .idle ∧
      pollTest t.cfg t.regs.r0 = true ∧ chanState t.cfg t.regs .rx = .enabledFull) ∧
  (∀ (s : State) (v : Byte), s.pcur = .idle → chanState s.cfg s.regs .tx = .enabledFull → s.regs.r3 = .byte v →
    (s.cfg.variant = .C → s.cfg.statusSetOnCpuWrite = true) →
    ∃ t, phases 3 .taketx s = .next t ∧ t.pres = .byte v ∧ t.plog = s.plog ++ [v] ∧ t.pcur = .idle ∧
      chanState t.cfg t.regs .tx = .enabledEmpty)

/-- `PCLRST` (R179): Variant C only. -/
def Obligations.PclrstClearsStatus : Prop :=
  ∀ s : State,
    encode .pclrst = 0xB800 ∧
    (s.cfg.variant = .A ∨ s.cfg.variant = .B → exec .pclrst s = .refused .notInVariant) ∧
    (s.cfg.variant = .C →
      exec .pclrst s = .next
        { s with
          regs := { s.regs with r2 := 0x00 }, history := s.history ++ [⟨.probe, .wr, .r2, 0x00⟩], pcur := .idle })

/-! ### The address binding -/

/-- With four distinct addresses, an access of one byte at `ADDR(VARIANT, i)` from either port is the access of register `i`, with the
CPU port's two exceptions (R10, R60, R61, R228). -/
def Obligations.AddressedAccessIsPortAccess : Prop :=
  ∀ (s : State) (op : Instr) (i : RegIx) (v : Byte) (k : Byte → State → Out), s.cfg.wf = true →
    busRead .probe op (addrOf s.cfg i) 1 s k = portRead .probe op i s k ∧
    busWrite .probe (addrOf s.cfg i) 1 v s = .next (s.probeWrite i v) ∧
    busRead .cpu op (addrOf s.cfg i) 1 s k =
      (if s.cfg.variant = .C ∧ i = .r3 then .refused .unmodelledRead else portRead .cpu op i s k) ∧
    busWrite .cpu (addrOf s.cfg i) 1 v s =
      (if s.cfg.variant = .C ∧ i = .r2 then .refused .readOnlyWrite else .next (s.cpuWrite i v))

/-- An access to the block wider than one byte is refused (R69), and so is a fetch from it (R75). Three things in it are the model's (log
12): that `WideAccess` is reported before the CPU port's rights and a fetch of any width as `FetchFromBlock`, since R226's order places
neither; that the address space has no top at which an access wraps, since R62 gives no width; and that no step reaches these accesses. -/
def Obligations.WideAccessAndFetchRefused : Prop :=
  ∀ (s : State) (ag : Agent) (op : Instr) (a n : Nat) (v : Byte) (k : Byte → State → Out), touchesBlock s.cfg a n = true →
    (n ≠ 1 → busRead ag op a n s k = .refused .wideAccess ∧ busWrite ag a n v s = .refused .wideAccess) ∧
    busFetch a n s = .refused .fetchFromBlock
end

