-- ==== Sys2Proof/Laws/Flags.lean ====
section
/-!
SUPPORT. What the flag tests say of the bytes the operations write.
-/

namespace Sys2Proof.Machine

@[simp] theorem fullTest_setBits (v : Byte) : fullTest (setBits fullMask v) = true := by
  revert v; decide

@[simp] theorem fullTest_clearBits (v : Byte) : fullTest (clearBits fullMask v) = false := by
  revert v; decide

@[simp] theorem fullTest_zero : fullTest 0 = false := by decide

/-- Enable is tested by one bit other than bit 0, whatever the variant. -/
theorem enMask_cases (c : Config) : enMask c = enMaskAB ∨ ∃ k : Fin 7, enMask c = (0x01 : Byte) <<< (k.val + 1) := by
  cases h : c.variant
  · exact .inl (by simp [enMask, h])
  · exact .inl (by simp [enMask, h])
  · exact .inr ⟨c.cEnBit, by simp [enMask, h, cEnMask]⟩

theorem enMask_eq_shift (c : Config) : ∃ k : Fin 7, enMask c = (0x01 : Byte) <<< (k.val + 1) := by
  rcases enMask_cases c with h | h
  · exact ⟨0, h.trans (by decide)⟩
  · exact h

@[simp] theorem enTest_clearBits (c : Config) (v : Byte) : enTest c (clearBits fullMask v) = enTest c v := by
  obtain ⟨k, h⟩ := enMask_eq_shift c
  simp only [enTest, h]
  clear h
  revert k v; decide

@[simp] theorem enTest_setBits (c : Config) (v : Byte) : enTest c (setBits fullMask v) = enTest c v := by
  obtain ⟨k, h⟩ := enMask_eq_shift c
  simp only [enTest, h]
  clear h
  revert k v; decide

@[simp] theorem enTest_zero (c : Config) : enTest c 0 = false := by
  simp [enTest, anyBit]

@[simp] theorem enTest_enMask (c : Config) : enTest c (enMask c) = true := by
  obtain ⟨k, h⟩ := enMask_eq_shift c
  simp only [enTest, h]
  clear h
  revert k; decide

@[simp] theorem enTest_enFull (c : Config) : enTest c (enMask c ||| fullMask) = true := by
  obtain ⟨k, h⟩ := enMask_eq_shift c
  simp only [enTest, h]
  clear h
  revert k; decide

@[simp] theorem fullTest_enMask (c : Config) : fullTest (enMask c) = false := by
  obtain ⟨k, h⟩ := enMask_eq_shift c
  simp only [h]
  clear h
  revert k; decide

@[simp] theorem fullTest_enFull (v : Byte) : fullTest (v ||| fullMask) = true := by
  revert v; decide

/-- What makes `POLL` true in any variant includes the full bit (R142). -/
theorem fullTest_of_pollTest {c : Config} {v : Byte} (h : pollTest c v = true) : fullTest v = true := by
  cases hv : c.variant <;> simp only [pollTest, hv] at h
  · exact h
  · rw [beq_iff_eq.mp h]; decide
  · exact h

/-- In A and B the TX slot is occupied when the full bit is set (R123). -/
theorem busyTest_not_C {c : Config} (h : c.variant ≠ .C) (v : Byte) : busyTest c v = fullTest v := by
  cases hv : c.variant <;> simp_all [busyTest]

/-- In C the TX slot is occupied when the status byte is not zero (R123, C5). -/
theorem busyTest_C {c : Config} (h : c.variant = .C) (v : Byte) : busyTest c v = (v != 0) := by
  simp [busyTest, h]

end Sys2Proof.Machine
end

