-- ==== Sys2Proof/Laws/State.lean ====
section
/-!
SUPPORT. The fields of the state after each named update: one lemma per field and update, so that no proof unfolds a record update;
and the registers after a register is set.
-/

namespace Sys2Proof.Machine

/-! ### The register file -/

@[simp] theorem RegFile.get_r0 (g : RegFile) : g.get .r0 = .byte g.r0 := rfl
@[simp] theorem RegFile.get_r1 (g : RegFile) : g.get .r1 = g.r1 := rfl
@[simp] theorem RegFile.get_r2 (g : RegFile) : g.get .r2 = .byte g.r2 := rfl
@[simp] theorem RegFile.get_r3 (g : RegFile) : g.get .r3 = g.r3 := rfl
@[simp] theorem RegFile.set_r0 (g : RegFile) (v : Byte) : g.set .r0 v = { g with r0 := v } := rfl
@[simp] theorem RegFile.set_r1 (g : RegFile) (v : Byte) : g.set .r1 v = { g with r1 := .byte v } := rfl
@[simp] theorem RegFile.set_r2 (g : RegFile) (v : Byte) : g.set .r2 v = { g with r2 := v } := rfl
@[simp] theorem RegFile.set_r3 (g : RegFile) (v : Byte) : g.set .r3 v = { g with r3 := .byte v } := rfl

/-- A read after a write of the same register gives the byte written. -/
@[simp] theorem RegFile.get_set_same (g : RegFile) (i : RegIx) (v : Byte) : (g.set i v).get i = .byte v := by
  cases i <;> rfl

/-- A write of one register leaves every other as it was. -/
theorem RegFile.get_set_ne (g : RegFile) {i j : RegIx} (v : Byte) (h : j ≠ i) : (g.set i v).get j = g.get j := by
  cases i <;> cases j <;> first | rfl | exact absurd rfl h

/-- Two register files with the same four contents are equal. -/
theorem RegFile.ext_get {g g' : RegFile} (h : ∀ j, g.get j = g'.get j) : g = g' := by
  cases g
  cases g'
  exact RegFile.mk.injEq .. ▸ ⟨Content.byte.inj (h .r0), h .r1, Content.byte.inj (h .r2), h .r3⟩

/-! ### record -/

@[simp] theorem State.record_cfg (s : State) (ag : Agent) (k : EventKind) (i : RegIx) (v : Byte) : (s.record ag k i v).cfg = s.cfg := rfl
@[simp] theorem State.record_regs (s : State) (ag : Agent) (k : EventKind) (i : RegIx) (v : Byte) : (s.record ag k i v).regs = s.regs := rfl
@[simp] theorem State.record_res (s : State) (ag : Agent) (k : EventKind) (i : RegIx) (v : Byte) : (s.record ag k i v).res = s.res := rfl
@[simp] theorem State.record_pres (s : State) (ag : Agent) (k : EventKind) (i : RegIx) (v : Byte) : (s.record ag k i v).pres = s.pres := rfl
@[simp] theorem State.record_clog (s : State) (ag : Agent) (k : EventKind) (i : RegIx) (v : Byte) : (s.record ag k i v).clog = s.clog := rfl
@[simp] theorem State.record_plog (s : State) (ag : Agent) (k : EventKind) (i : RegIx) (v : Byte) : (s.record ag k i v).plog = s.plog := rfl
@[simp] theorem State.record_prog (s : State) (ag : Agent) (k : EventKind) (i : RegIx) (v : Byte) : (s.record ag k i v).prog = s.prog := rfl
@[simp] theorem State.record_pc (s : State) (ag : Agent) (k : EventKind) (i : RegIx) (v : Byte) : (s.record ag k i v).pc = s.pc := rfl
@[simp] theorem State.record_halted (s : State) (ag : Agent) (k : EventKind) (i : RegIx) (v : Byte) : (s.record ag k i v).halted = s.halted := rfl
@[simp] theorem State.record_cur (s : State) (ag : Agent) (k : EventKind) (i : RegIx) (v : Byte) : (s.record ag k i v).cur = s.cur := rfl
@[simp] theorem State.record_pcur (s : State) (ag : Agent) (k : EventKind) (i : RegIx) (v : Byte) : (s.record ag k i v).pcur = s.pcur := rfl
@[simp] theorem State.record_psched (s : State) (ag : Agent) (k : EventKind) (i : RegIx) (v : Byte) : (s.record ag k i v).psched = s.psched := rfl
@[simp] theorem State.record_history (s : State) (ag : Agent) (k : EventKind) (i : RegIx) (v : Byte) : (s.record ag k i v).history = s.history ++ [⟨ag, k, i, v⟩] := rfl
@[simp] theorem State.record_turns (s : State) (ag : Agent) (k : EventKind) (i : RegIx) (v : Byte) : (s.record ag k i v).turns = s.turns := rfl
@[simp] theorem State.record_turnNo (s : State) (ag : Agent) (k : EventKind) (i : RegIx) (v : Byte) : (s.record ag k i v).turnNo = s.turnNo := rfl

/-! ### store -/

@[simp] theorem State.store_cfg (s : State) (i : RegIx) (v : Byte) : (s.store i v).cfg = s.cfg := rfl
@[simp] theorem State.store_regs (s : State) (i : RegIx) (v : Byte) : (s.store i v).regs = s.regs.set i v := rfl
@[simp] theorem State.store_res (s : State) (i : RegIx) (v : Byte) : (s.store i v).res = s.res := rfl
@[simp] theorem State.store_pres (s : State) (i : RegIx) (v : Byte) : (s.store i v).pres = s.pres := rfl
@[simp] theorem State.store_clog (s : State) (i : RegIx) (v : Byte) : (s.store i v).clog = s.clog := rfl
@[simp] theorem State.store_plog (s : State) (i : RegIx) (v : Byte) : (s.store i v).plog = s.plog := rfl
@[simp] theorem State.store_prog (s : State) (i : RegIx) (v : Byte) : (s.store i v).prog = s.prog := rfl
@[simp] theorem State.store_pc (s : State) (i : RegIx) (v : Byte) : (s.store i v).pc = s.pc := rfl
@[simp] theorem State.store_halted (s : State) (i : RegIx) (v : Byte) : (s.store i v).halted = s.halted := rfl
@[simp] theorem State.store_cur (s : State) (i : RegIx) (v : Byte) : (s.store i v).cur = s.cur := rfl
@[simp] theorem State.store_pcur (s : State) (i : RegIx) (v : Byte) : (s.store i v).pcur = s.pcur := rfl
@[simp] theorem State.store_psched (s : State) (i : RegIx) (v : Byte) : (s.store i v).psched = s.psched := rfl
@[simp] theorem State.store_history (s : State) (i : RegIx) (v : Byte) : (s.store i v).history = s.history := rfl
@[simp] theorem State.store_turns (s : State) (i : RegIx) (v : Byte) : (s.store i v).turns = s.turns := rfl
@[simp] theorem State.store_turnNo (s : State) (i : RegIx) (v : Byte) : (s.store i v).turnNo = s.turnNo := rfl

/-! ### setRes -/

@[simp] theorem State.setRes_cfg (s : State) (v : Byte) : (s.setRes v).cfg = s.cfg := rfl
@[simp] theorem State.setRes_regs (s : State) (v : Byte) : (s.setRes v).regs = s.regs := rfl
@[simp] theorem State.setRes_res (s : State) (v : Byte) : (s.setRes v).res = .byte v := rfl
@[simp] theorem State.setRes_pres (s : State) (v : Byte) : (s.setRes v).pres = s.pres := rfl
@[simp] theorem State.setRes_clog (s : State) (v : Byte) : (s.setRes v).clog = s.clog := rfl
@[simp] theorem State.setRes_plog (s : State) (v : Byte) : (s.setRes v).plog = s.plog := rfl
@[simp] theorem State.setRes_prog (s : State) (v : Byte) : (s.setRes v).prog = s.prog := rfl
@[simp] theorem State.setRes_pc (s : State) (v : Byte) : (s.setRes v).pc = s.pc := rfl
@[simp] theorem State.setRes_halted (s : State) (v : Byte) : (s.setRes v).halted = s.halted := rfl
@[simp] theorem State.setRes_cur (s : State) (v : Byte) : (s.setRes v).cur = s.cur := rfl
@[simp] theorem State.setRes_pcur (s : State) (v : Byte) : (s.setRes v).pcur = s.pcur := rfl
@[simp] theorem State.setRes_psched (s : State) (v : Byte) : (s.setRes v).psched = s.psched := rfl
@[simp] theorem State.setRes_history (s : State) (v : Byte) : (s.setRes v).history = s.history := rfl
@[simp] theorem State.setRes_turns (s : State) (v : Byte) : (s.setRes v).turns = s.turns := rfl
@[simp] theorem State.setRes_turnNo (s : State) (v : Byte) : (s.setRes v).turnNo = s.turnNo := rfl

/-! ### setPres -/

@[simp] theorem State.setPres_cfg (s : State) (v : Byte) : (s.setPres v).cfg = s.cfg := rfl
@[simp] theorem State.setPres_regs (s : State) (v : Byte) : (s.setPres v).regs = s.regs := rfl
@[simp] theorem State.setPres_res (s : State) (v : Byte) : (s.setPres v).res = s.res := rfl
@[simp] theorem State.setPres_pres (s : State) (v : Byte) : (s.setPres v).pres = .byte v := rfl
@[simp] theorem State.setPres_clog (s : State) (v : Byte) : (s.setPres v).clog = s.clog := rfl
@[simp] theorem State.setPres_plog (s : State) (v : Byte) : (s.setPres v).plog = s.plog := rfl
@[simp] theorem State.setPres_prog (s : State) (v : Byte) : (s.setPres v).prog = s.prog := rfl
@[simp] theorem State.setPres_pc (s : State) (v : Byte) : (s.setPres v).pc = s.pc := rfl
@[simp] theorem State.setPres_halted (s : State) (v : Byte) : (s.setPres v).halted = s.halted := rfl
@[simp] theorem State.setPres_cur (s : State) (v : Byte) : (s.setPres v).cur = s.cur := rfl
@[simp] theorem State.setPres_pcur (s : State) (v : Byte) : (s.setPres v).pcur = s.pcur := rfl
@[simp] theorem State.setPres_psched (s : State) (v : Byte) : (s.setPres v).psched = s.psched := rfl
@[simp] theorem State.setPres_history (s : State) (v : Byte) : (s.setPres v).history = s.history := rfl
@[simp] theorem State.setPres_turns (s : State) (v : Byte) : (s.setPres v).turns = s.turns := rfl
@[simp] theorem State.setPres_turnNo (s : State) (v : Byte) : (s.setPres v).turnNo = s.turnNo := rfl

/-! ### logCpu -/

@[simp] theorem State.logCpu_cfg (s : State) (v : Byte) : (s.logCpu v).cfg = s.cfg := rfl
@[simp] theorem State.logCpu_regs (s : State) (v : Byte) : (s.logCpu v).regs = s.regs := rfl
@[simp] theorem State.logCpu_res (s : State) (v : Byte) : (s.logCpu v).res = s.res := rfl
@[simp] theorem State.logCpu_pres (s : State) (v : Byte) : (s.logCpu v).pres = s.pres := rfl
@[simp] theorem State.logCpu_clog (s : State) (v : Byte) : (s.logCpu v).clog = s.clog ++ [v] := rfl
@[simp] theorem State.logCpu_plog (s : State) (v : Byte) : (s.logCpu v).plog = s.plog := rfl
@[simp] theorem State.logCpu_prog (s : State) (v : Byte) : (s.logCpu v).prog = s.prog := rfl
@[simp] theorem State.logCpu_pc (s : State) (v : Byte) : (s.logCpu v).pc = s.pc := rfl
@[simp] theorem State.logCpu_halted (s : State) (v : Byte) : (s.logCpu v).halted = s.halted := rfl
@[simp] theorem State.logCpu_cur (s : State) (v : Byte) : (s.logCpu v).cur = s.cur := rfl
@[simp] theorem State.logCpu_pcur (s : State) (v : Byte) : (s.logCpu v).pcur = s.pcur := rfl
@[simp] theorem State.logCpu_psched (s : State) (v : Byte) : (s.logCpu v).psched = s.psched := rfl
@[simp] theorem State.logCpu_history (s : State) (v : Byte) : (s.logCpu v).history = s.history := rfl
@[simp] theorem State.logCpu_turns (s : State) (v : Byte) : (s.logCpu v).turns = s.turns := rfl
@[simp] theorem State.logCpu_turnNo (s : State) (v : Byte) : (s.logCpu v).turnNo = s.turnNo := rfl

/-! ### logProbe -/

@[simp] theorem State.logProbe_cfg (s : State) (v : Byte) : (s.logProbe v).cfg = s.cfg := rfl
@[simp] theorem State.logProbe_regs (s : State) (v : Byte) : (s.logProbe v).regs = s.regs := rfl
@[simp] theorem State.logProbe_res (s : State) (v : Byte) : (s.logProbe v).res = s.res := rfl
@[simp] theorem State.logProbe_pres (s : State) (v : Byte) : (s.logProbe v).pres = s.pres := rfl
@[simp] theorem State.logProbe_clog (s : State) (v : Byte) : (s.logProbe v).clog = s.clog := rfl
@[simp] theorem State.logProbe_plog (s : State) (v : Byte) : (s.logProbe v).plog = s.plog ++ [v] := rfl
@[simp] theorem State.logProbe_prog (s : State) (v : Byte) : (s.logProbe v).prog = s.prog := rfl
@[simp] theorem State.logProbe_pc (s : State) (v : Byte) : (s.logProbe v).pc = s.pc := rfl
@[simp] theorem State.logProbe_halted (s : State) (v : Byte) : (s.logProbe v).halted = s.halted := rfl
@[simp] theorem State.logProbe_cur (s : State) (v : Byte) : (s.logProbe v).cur = s.cur := rfl
@[simp] theorem State.logProbe_pcur (s : State) (v : Byte) : (s.logProbe v).pcur = s.pcur := rfl
@[simp] theorem State.logProbe_psched (s : State) (v : Byte) : (s.logProbe v).psched = s.psched := rfl
@[simp] theorem State.logProbe_history (s : State) (v : Byte) : (s.logProbe v).history = s.history := rfl
@[simp] theorem State.logProbe_turns (s : State) (v : Byte) : (s.logProbe v).turns = s.turns := rfl
@[simp] theorem State.logProbe_turnNo (s : State) (v : Byte) : (s.logProbe v).turnNo = s.turnNo := rfl

/-! ### cpuDone -/

@[simp] theorem State.cpuDone_cfg (s : State) : (s.cpuDone).cfg = s.cfg := rfl
@[simp] theorem State.cpuDone_regs (s : State) : (s.cpuDone).regs = s.regs := rfl
@[simp] theorem State.cpuDone_res (s : State) : (s.cpuDone).res = s.res := rfl
@[simp] theorem State.cpuDone_pres (s : State) : (s.cpuDone).pres = s.pres := rfl
@[simp] theorem State.cpuDone_clog (s : State) : (s.cpuDone).clog = s.clog := rfl
@[simp] theorem State.cpuDone_plog (s : State) : (s.cpuDone).plog = s.plog := rfl
@[simp] theorem State.cpuDone_prog (s : State) : (s.cpuDone).prog = s.prog := rfl
@[simp] theorem State.cpuDone_pc (s : State) : (s.cpuDone).pc = s.pc + 1 := rfl
@[simp] theorem State.cpuDone_halted (s : State) : (s.cpuDone).halted = s.halted := rfl
@[simp] theorem State.cpuDone_cur (s : State) : (s.cpuDone).cur = .idle := rfl
@[simp] theorem State.cpuDone_pcur (s : State) : (s.cpuDone).pcur = s.pcur := rfl
@[simp] theorem State.cpuDone_psched (s : State) : (s.cpuDone).psched = s.psched := rfl
@[simp] theorem State.cpuDone_history (s : State) : (s.cpuDone).history = s.history := rfl
@[simp] theorem State.cpuDone_turns (s : State) : (s.cpuDone).turns = s.turns := rfl
@[simp] theorem State.cpuDone_turnNo (s : State) : (s.cpuDone).turnNo = s.turnNo := rfl

/-! ### cpuGoto -/

@[simp] theorem State.cpuGoto_cfg (s : State) (op : Instr) (ph : CpuPhase) (lat : Content) : (s.cpuGoto op ph lat).cfg = s.cfg := rfl
@[simp] theorem State.cpuGoto_regs (s : State) (op : Instr) (ph : CpuPhase) (lat : Content) : (s.cpuGoto op ph lat).regs = s.regs := rfl
@[simp] theorem State.cpuGoto_res (s : State) (op : Instr) (ph : CpuPhase) (lat : Content) : (s.cpuGoto op ph lat).res = s.res := rfl
@[simp] theorem State.cpuGoto_pres (s : State) (op : Instr) (ph : CpuPhase) (lat : Content) : (s.cpuGoto op ph lat).pres = s.pres := rfl
@[simp] theorem State.cpuGoto_clog (s : State) (op : Instr) (ph : CpuPhase) (lat : Content) : (s.cpuGoto op ph lat).clog = s.clog := rfl
@[simp] theorem State.cpuGoto_plog (s : State) (op : Instr) (ph : CpuPhase) (lat : Content) : (s.cpuGoto op ph lat).plog = s.plog := rfl
@[simp] theorem State.cpuGoto_prog (s : State) (op : Instr) (ph : CpuPhase) (lat : Content) : (s.cpuGoto op ph lat).prog = s.prog := rfl
@[simp] theorem State.cpuGoto_pc (s : State) (op : Instr) (ph : CpuPhase) (lat : Content) : (s.cpuGoto op ph lat).pc = s.pc := rfl
@[simp] theorem State.cpuGoto_halted (s : State) (op : Instr) (ph : CpuPhase) (lat : Content) : (s.cpuGoto op ph lat).halted = s.halted := rfl
@[simp] theorem State.cpuGoto_cur (s : State) (op : Instr) (ph : CpuPhase) (lat : Content) : (s.cpuGoto op ph lat).cur = .busy op ph lat := rfl
@[simp] theorem State.cpuGoto_pcur (s : State) (op : Instr) (ph : CpuPhase) (lat : Content) : (s.cpuGoto op ph lat).pcur = s.pcur := rfl
@[simp] theorem State.cpuGoto_psched (s : State) (op : Instr) (ph : CpuPhase) (lat : Content) : (s.cpuGoto op ph lat).psched = s.psched := rfl
@[simp] theorem State.cpuGoto_history (s : State) (op : Instr) (ph : CpuPhase) (lat : Content) : (s.cpuGoto op ph lat).history = s.history := rfl
@[simp] theorem State.cpuGoto_turns (s : State) (op : Instr) (ph : CpuPhase) (lat : Content) : (s.cpuGoto op ph lat).turns = s.turns := rfl
@[simp] theorem State.cpuGoto_turnNo (s : State) (op : Instr) (ph : CpuPhase) (lat : Content) : (s.cpuGoto op ph lat).turnNo = s.turnNo := rfl

/-! ### jumpTo -/

@[simp] theorem State.jumpTo_cfg (s : State) (t : Nat) : (s.jumpTo t).cfg = s.cfg := rfl
@[simp] theorem State.jumpTo_regs (s : State) (t : Nat) : (s.jumpTo t).regs = s.regs := rfl
@[simp] theorem State.jumpTo_res (s : State) (t : Nat) : (s.jumpTo t).res = s.res := rfl
@[simp] theorem State.jumpTo_pres (s : State) (t : Nat) : (s.jumpTo t).pres = s.pres := rfl
@[simp] theorem State.jumpTo_clog (s : State) (t : Nat) : (s.jumpTo t).clog = s.clog := rfl
@[simp] theorem State.jumpTo_plog (s : State) (t : Nat) : (s.jumpTo t).plog = s.plog := rfl
@[simp] theorem State.jumpTo_prog (s : State) (t : Nat) : (s.jumpTo t).prog = s.prog := rfl
@[simp] theorem State.jumpTo_pc (s : State) (t : Nat) : (s.jumpTo t).pc = t := rfl
@[simp] theorem State.jumpTo_halted (s : State) (t : Nat) : (s.jumpTo t).halted = s.halted := rfl
@[simp] theorem State.jumpTo_cur (s : State) (t : Nat) : (s.jumpTo t).cur = .idle := rfl
@[simp] theorem State.jumpTo_pcur (s : State) (t : Nat) : (s.jumpTo t).pcur = s.pcur := rfl
@[simp] theorem State.jumpTo_psched (s : State) (t : Nat) : (s.jumpTo t).psched = s.psched := rfl
@[simp] theorem State.jumpTo_history (s : State) (t : Nat) : (s.jumpTo t).history = s.history := rfl
@[simp] theorem State.jumpTo_turns (s : State) (t : Nat) : (s.jumpTo t).turns = s.turns := rfl
@[simp] theorem State.jumpTo_turnNo (s : State) (t : Nat) : (s.jumpTo t).turnNo = s.turnNo := rfl

/-! ### probeDone -/

@[simp] theorem State.probeDone_cfg (s : State) : (s.probeDone).cfg = s.cfg := rfl
@[simp] theorem State.probeDone_regs (s : State) : (s.probeDone).regs = s.regs := rfl
@[simp] theorem State.probeDone_res (s : State) : (s.probeDone).res = s.res := rfl
@[simp] theorem State.probeDone_pres (s : State) : (s.probeDone).pres = s.pres := rfl
@[simp] theorem State.probeDone_clog (s : State) : (s.probeDone).clog = s.clog := rfl
@[simp] theorem State.probeDone_plog (s : State) : (s.probeDone).plog = s.plog := rfl
@[simp] theorem State.probeDone_prog (s : State) : (s.probeDone).prog = s.prog := rfl
@[simp] theorem State.probeDone_pc (s : State) : (s.probeDone).pc = s.pc := rfl
@[simp] theorem State.probeDone_halted (s : State) : (s.probeDone).halted = s.halted := rfl
@[simp] theorem State.probeDone_cur (s : State) : (s.probeDone).cur = s.cur := rfl
@[simp] theorem State.probeDone_pcur (s : State) : (s.probeDone).pcur = .idle := rfl
@[simp] theorem State.probeDone_psched (s : State) : (s.probeDone).psched = s.psched := rfl
@[simp] theorem State.probeDone_history (s : State) : (s.probeDone).history = s.history := rfl
@[simp] theorem State.probeDone_turns (s : State) : (s.probeDone).turns = s.turns := rfl
@[simp] theorem State.probeDone_turnNo (s : State) : (s.probeDone).turnNo = s.turnNo := rfl

/-! ### probeGoto -/

@[simp] theorem State.probeGoto_cfg (s : State) (op : Instr) (ph : ProbePhase) (lat : Content) : (s.probeGoto op ph lat).cfg = s.cfg := rfl
@[simp] theorem State.probeGoto_regs (s : State) (op : Instr) (ph : ProbePhase) (lat : Content) : (s.probeGoto op ph lat).regs = s.regs := rfl
@[simp] theorem State.probeGoto_res (s : State) (op : Instr) (ph : ProbePhase) (lat : Content) : (s.probeGoto op ph lat).res = s.res := rfl
@[simp] theorem State.probeGoto_pres (s : State) (op : Instr) (ph : ProbePhase) (lat : Content) : (s.probeGoto op ph lat).pres = s.pres := rfl
@[simp] theorem State.probeGoto_clog (s : State) (op : Instr) (ph : ProbePhase) (lat : Content) : (s.probeGoto op ph lat).clog = s.clog := rfl
@[simp] theorem State.probeGoto_plog (s : State) (op : Instr) (ph : ProbePhase) (lat : Content) : (s.probeGoto op ph lat).plog = s.plog := rfl
@[simp] theorem State.probeGoto_prog (s : State) (op : Instr) (ph : ProbePhase) (lat : Content) : (s.probeGoto op ph lat).prog = s.prog := rfl
@[simp] theorem State.probeGoto_pc (s : State) (op : Instr) (ph : ProbePhase) (lat : Content) : (s.probeGoto op ph lat).pc = s.pc := rfl
@[simp] theorem State.probeGoto_halted (s : State) (op : Instr) (ph : ProbePhase) (lat : Content) : (s.probeGoto op ph lat).halted = s.halted := rfl
@[simp] theorem State.probeGoto_cur (s : State) (op : Instr) (ph : ProbePhase) (lat : Content) : (s.probeGoto op ph lat).cur = s.cur := rfl
@[simp] theorem State.probeGoto_pcur (s : State) (op : Instr) (ph : ProbePhase) (lat : Content) : (s.probeGoto op ph lat).pcur = .busy op ph lat := rfl
@[simp] theorem State.probeGoto_psched (s : State) (op : Instr) (ph : ProbePhase) (lat : Content) : (s.probeGoto op ph lat).psched = s.psched := rfl
@[simp] theorem State.probeGoto_history (s : State) (op : Instr) (ph : ProbePhase) (lat : Content) : (s.probeGoto op ph lat).history = s.history := rfl
@[simp] theorem State.probeGoto_turns (s : State) (op : Instr) (ph : ProbePhase) (lat : Content) : (s.probeGoto op ph lat).turns = s.turns := rfl
@[simp] theorem State.probeGoto_turnNo (s : State) (op : Instr) (ph : ProbePhase) (lat : Content) : (s.probeGoto op ph lat).turnNo = s.turnNo := rfl

/-! ### probeWrite -/

@[simp] theorem State.probeWrite_cfg (s : State) (i : RegIx) (v : Byte) : (s.probeWrite i v).cfg = s.cfg := rfl
@[simp] theorem State.probeWrite_regs (s : State) (i : RegIx) (v : Byte) : (s.probeWrite i v).regs = s.regs.set i v := rfl
@[simp] theorem State.probeWrite_res (s : State) (i : RegIx) (v : Byte) : (s.probeWrite i v).res = s.res := rfl
@[simp] theorem State.probeWrite_pres (s : State) (i : RegIx) (v : Byte) : (s.probeWrite i v).pres = s.pres := rfl
@[simp] theorem State.probeWrite_clog (s : State) (i : RegIx) (v : Byte) : (s.probeWrite i v).clog = s.clog := rfl
@[simp] theorem State.probeWrite_plog (s : State) (i : RegIx) (v : Byte) : (s.probeWrite i v).plog = s.plog := rfl
@[simp] theorem State.probeWrite_prog (s : State) (i : RegIx) (v : Byte) : (s.probeWrite i v).prog = s.prog := rfl
@[simp] theorem State.probeWrite_pc (s : State) (i : RegIx) (v : Byte) : (s.probeWrite i v).pc = s.pc := rfl
@[simp] theorem State.probeWrite_halted (s : State) (i : RegIx) (v : Byte) : (s.probeWrite i v).halted = s.halted := rfl
@[simp] theorem State.probeWrite_cur (s : State) (i : RegIx) (v : Byte) : (s.probeWrite i v).cur = s.cur := rfl
@[simp] theorem State.probeWrite_pcur (s : State) (i : RegIx) (v : Byte) : (s.probeWrite i v).pcur = s.pcur := rfl
@[simp] theorem State.probeWrite_psched (s : State) (i : RegIx) (v : Byte) : (s.probeWrite i v).psched = s.psched := rfl
@[simp] theorem State.probeWrite_history (s : State) (i : RegIx) (v : Byte) : (s.probeWrite i v).history = s.history ++ [⟨.probe, .wr, i, v⟩] := rfl
@[simp] theorem State.probeWrite_turns (s : State) (i : RegIx) (v : Byte) : (s.probeWrite i v).turns = s.turns := rfl
@[simp] theorem State.probeWrite_turnNo (s : State) (i : RegIx) (v : Byte) : (s.probeWrite i v).turnNo = s.turnNo := rfl

/-! ### statusEffect and cpuWrite -/

@[simp] theorem State.statusEffect_cfg (s : State) (i : RegIx) : (s.statusEffect i).cfg = s.cfg := by
  unfold State.statusEffect; split <;> rfl
@[simp] theorem State.statusEffect_res (s : State) (i : RegIx) : (s.statusEffect i).res = s.res := by
  unfold State.statusEffect; split <;> rfl
@[simp] theorem State.statusEffect_pres (s : State) (i : RegIx) : (s.statusEffect i).pres = s.pres := by
  unfold State.statusEffect; split <;> rfl
@[simp] theorem State.statusEffect_clog (s : State) (i : RegIx) : (s.statusEffect i).clog = s.clog := by
  unfold State.statusEffect; split <;> rfl
@[simp] theorem State.statusEffect_plog (s : State) (i : RegIx) : (s.statusEffect i).plog = s.plog := by
  unfold State.statusEffect; split <;> rfl
@[simp] theorem State.statusEffect_prog (s : State) (i : RegIx) : (s.statusEffect i).prog = s.prog := by
  unfold State.statusEffect; split <;> rfl
@[simp] theorem State.statusEffect_pc (s : State) (i : RegIx) : (s.statusEffect i).pc = s.pc := by
  unfold State.statusEffect; split <;> rfl
@[simp] theorem State.statusEffect_halted (s : State) (i : RegIx) : (s.statusEffect i).halted = s.halted := by
  unfold State.statusEffect; split <;> rfl
@[simp] theorem State.statusEffect_cur (s : State) (i : RegIx) : (s.statusEffect i).cur = s.cur := by
  unfold State.statusEffect; split <;> rfl
@[simp] theorem State.statusEffect_pcur (s : State) (i : RegIx) : (s.statusEffect i).pcur = s.pcur := by
  unfold State.statusEffect; split <;> rfl
@[simp] theorem State.statusEffect_psched (s : State) (i : RegIx) : (s.statusEffect i).psched = s.psched := by
  unfold State.statusEffect; split <;> rfl
@[simp] theorem State.statusEffect_history (s : State) (i : RegIx) : (s.statusEffect i).history = s.history := by
  unfold State.statusEffect; split <;> rfl
@[simp] theorem State.statusEffect_turns (s : State) (i : RegIx) : (s.statusEffect i).turns = s.turns := by
  unfold State.statusEffect; split <;> rfl
@[simp] theorem State.statusEffect_turnNo (s : State) (i : RegIx) : (s.statusEffect i).turnNo = s.turnNo := by
  unfold State.statusEffect; split <;> rfl

/-- The side effect of R34 in A and B: none. -/
theorem State.statusEffect_not_C {s : State} (i : RegIx) (h : s.cfg.variant ≠ .C) : s.statusEffect i = s := by
  simp [State.statusEffect, h]

/-- The side effect of R34 on a register other than `MSG`: none. -/
theorem State.statusEffect_ne {s : State} {i : RegIx} (h : i ≠ .r3) : s.statusEffect i = s := by
  simp [State.statusEffect, h]

/-- The registers after a CPU write: the byte, and in C the status set with a write of `MSG` (R34). -/
theorem State.cpuWrite_regs (s : State) (i : RegIx) (v : Byte) :
    (s.cpuWrite i v).regs =
      if s.cfg.variant = .C ∧ i = .r3 ∧ s.cfg.statusSetOnCpuWrite = true then
        { s.regs.set i v with r2 := statusSetValue }
      else s.regs.set i v := by
  unfold State.cpuWrite State.statusEffect
  rw [apply_ite State.regs]
  rfl

@[simp] theorem State.cpuWrite_cfg (s : State) (i : RegIx) (v : Byte) : (s.cpuWrite i v).cfg = s.cfg := by
  simp [State.cpuWrite]
@[simp] theorem State.cpuWrite_res (s : State) (i : RegIx) (v : Byte) : (s.cpuWrite i v).res = s.res := by
  simp [State.cpuWrite]
@[simp] theorem State.cpuWrite_pres (s : State) (i : RegIx) (v : Byte) : (s.cpuWrite i v).pres = s.pres := by
  simp [State.cpuWrite]
@[simp] theorem State.cpuWrite_clog (s : State) (i : RegIx) (v : Byte) : (s.cpuWrite i v).clog = s.clog := by
  simp [State.cpuWrite]
@[simp] theorem State.cpuWrite_plog (s : State) (i : RegIx) (v : Byte) : (s.cpuWrite i v).plog = s.plog := by
  simp [State.cpuWrite]
@[simp] theorem State.cpuWrite_prog (s : State) (i : RegIx) (v : Byte) : (s.cpuWrite i v).prog = s.prog := by
  simp [State.cpuWrite]
@[simp] theorem State.cpuWrite_pc (s : State) (i : RegIx) (v : Byte) : (s.cpuWrite i v).pc = s.pc := by
  simp [State.cpuWrite]
@[simp] theorem State.cpuWrite_halted (s : State) (i : RegIx) (v : Byte) : (s.cpuWrite i v).halted = s.halted := by
  simp [State.cpuWrite]
@[simp] theorem State.cpuWrite_cur (s : State) (i : RegIx) (v : Byte) : (s.cpuWrite i v).cur = s.cur := by
  simp [State.cpuWrite]
@[simp] theorem State.cpuWrite_pcur (s : State) (i : RegIx) (v : Byte) : (s.cpuWrite i v).pcur = s.pcur := by
  simp [State.cpuWrite]
@[simp] theorem State.cpuWrite_psched (s : State) (i : RegIx) (v : Byte) : (s.cpuWrite i v).psched = s.psched := by
  simp [State.cpuWrite]
@[simp] theorem State.cpuWrite_history (s : State) (i : RegIx) (v : Byte) : (s.cpuWrite i v).history = s.history ++ [⟨.cpu, .wr, i, v⟩] := by
  simp [State.cpuWrite]
@[simp] theorem State.cpuWrite_turns (s : State) (i : RegIx) (v : Byte) : (s.cpuWrite i v).turns = s.turns := by
  simp [State.cpuWrite]
@[simp] theorem State.cpuWrite_turnNo (s : State) (i : RegIx) (v : Byte) : (s.cpuWrite i v).turnNo = s.turnNo := by
  simp [State.cpuWrite]

/-! ### takeTurn -/

@[simp] theorem State.takeTurn_cfg (s : State) : s.takeTurn.cfg = s.cfg := by
  unfold State.takeTurn; split <;> rfl
@[simp] theorem State.takeTurn_regs (s : State) : s.takeTurn.regs = s.regs := by
  unfold State.takeTurn; split <;> rfl
@[simp] theorem State.takeTurn_res (s : State) : s.takeTurn.res = s.res := by
  unfold State.takeTurn; split <;> rfl
@[simp] theorem State.takeTurn_pres (s : State) : s.takeTurn.pres = s.pres := by
  unfold State.takeTurn; split <;> rfl
@[simp] theorem State.takeTurn_clog (s : State) : s.takeTurn.clog = s.clog := by
  unfold State.takeTurn; split <;> rfl
@[simp] theorem State.takeTurn_plog (s : State) : s.takeTurn.plog = s.plog := by
  unfold State.takeTurn; split <;> rfl
@[simp] theorem State.takeTurn_prog (s : State) : s.takeTurn.prog = s.prog := by
  unfold State.takeTurn; split <;> rfl
@[simp] theorem State.takeTurn_pc (s : State) : s.takeTurn.pc = s.pc := by
  unfold State.takeTurn; split <;> rfl
@[simp] theorem State.takeTurn_halted (s : State) : s.takeTurn.halted = s.halted := by
  unfold State.takeTurn; split <;> rfl
@[simp] theorem State.takeTurn_cur (s : State) : s.takeTurn.cur = s.cur := by
  unfold State.takeTurn; split <;> rfl
@[simp] theorem State.takeTurn_pcur (s : State) : s.takeTurn.pcur = s.pcur := by
  unfold State.takeTurn; split <;> rfl
@[simp] theorem State.takeTurn_psched (s : State) : s.takeTurn.psched = s.psched := by
  unfold State.takeTurn; split <;> rfl
@[simp] theorem State.takeTurn_history (s : State) : s.takeTurn.history = s.history := by
  unfold State.takeTurn; split <;> rfl

/-! ### feed -/

@[simp] theorem State.feed_cfg (s : State) (f : Feed) : (s.feed f).cfg = s.cfg := rfl
@[simp] theorem State.feed_regs (s : State) (f : Feed) : (s.feed f).regs = s.regs := rfl
@[simp] theorem State.feed_res (s : State) (f : Feed) : (s.feed f).res = s.res := rfl
@[simp] theorem State.feed_pres (s : State) (f : Feed) : (s.feed f).pres = s.pres := rfl
@[simp] theorem State.feed_clog (s : State) (f : Feed) : (s.feed f).clog = s.clog := rfl
@[simp] theorem State.feed_plog (s : State) (f : Feed) : (s.feed f).plog = s.plog := rfl
@[simp] theorem State.feed_prog (s : State) (f : Feed) : (s.feed f).prog = s.prog := rfl
@[simp] theorem State.feed_pc (s : State) (f : Feed) : (s.feed f).pc = s.pc := rfl
@[simp] theorem State.feed_halted (s : State) (f : Feed) : (s.feed f).halted = s.halted := rfl
@[simp] theorem State.feed_cur (s : State) (f : Feed) : (s.feed f).cur = s.cur := rfl
@[simp] theorem State.feed_pcur (s : State) (f : Feed) : (s.feed f).pcur = s.pcur := rfl
@[simp] theorem State.feed_history (s : State) (f : Feed) : (s.feed f).history = s.history := rfl
@[simp] theorem State.feed_turnNo (s : State) (f : Feed) : (s.feed f).turnNo = s.turnNo := rfl
@[simp] theorem State.feed_psched (s : State) (f : Feed) : (s.feed f).psched = s.psched ++ f.words := rfl
@[simp] theorem State.feed_turns (s : State) (f : Feed) : (s.feed f).turns = s.turns ++ f.turns := rfl

end Sys2Proof.Machine
end

