-- ==== Sys2Proof/Laws/Ops.lean ====
section
/-!
SUPPORT. What each shared operation can do: when it answers a next state, and what that state is. Cited instead of unfolding it.
-/

namespace Sys2Proof.Machine

theorem refuseOr_next {q : Option Refusal} {k : Out} {t : State} (h : refuseOr q k = .next t) : q = none ∧ k = .next t := by
  cases q with
  | none => exact ⟨rfl, h⟩
  | some r => cases h

theorem portRead_next {ag : Agent} {op : Instr} {i : RegIx} {s t : State} {k : Byte → State → Out}
    (h : portRead ag op i s k = .next t) : ∃ v, s.regs.get i = .byte v ∧ k v (s.record ag .rd i v) = .next t := by
  unfold portRead at h
  split at h
  · cases h
  · exact ⟨_, ‹_›, h⟩

theorem portRead_byte {ag : Agent} {op : Instr} {i : RegIx} {s : State} {v : Byte} (h : s.regs.get i = .byte v)
    (k : Byte → State → Out) : portRead ag op i s k = k v (s.record ag .rd i v) := by
  simp [portRead, h]

theorem portRead_unwritten {ag : Agent} {op : Instr} {i : RegIx} {s : State} (h : s.regs.get i = .unwritten)
    (k : Byte → State → Out) : portRead ag op i s k = .fault (.unwrittenRead (faultRecord ag op (some i) s)) := by
  simp [portRead, h]

theorem cpuModify_next {op : Instr} {i : RegIx} {f : Byte → Byte} {s t : State} {k : State → Out}
    (h : cpuModify op i f s k = .next t) :
    ∃ v, s.regs.get i = .byte v ∧ k ((s.store i (f v)).record .cpu .rmw i (f v)) = .next t := by
  unfold cpuModify at h
  split at h
  · cases h
  · exact ⟨_, ‹_›, h⟩

theorem cpuModify_byte {op : Instr} {i : RegIx} {f : Byte → Byte} {s : State} {v : Byte} (h : s.regs.get i = .byte v)
    (k : State → Out) : cpuModify op i f s k = k ((s.store i (f v)).record .cpu .rmw i (f v)) := by
  simp [cpuModify, h]

theorem cpuModify_unwritten {op : Instr} {i : RegIx} {f : Byte → Byte} {s : State} (h : s.regs.get i = .unwritten)
    (k : State → Out) : cpuModify op i f s k = .fault (.unwrittenRead (faultRecord .cpu op (some i) s)) := by
  simp [cpuModify, h]

theorem readRes_next {op : Instr} {s t : State} {k : Byte → Out} (h : readRes op s k = .next t) :
    ∃ v, s.res = .byte v ∧ k v = .next t := by
  unfold readRes at h
  split at h
  · cases h
  · exact ⟨_, ‹_›, h⟩

theorem readRes_byte {op : Instr} {s : State} {v : Byte} (h : s.res = .byte v) (k : Byte → Out) : readRes op s k = k v := by
  simp [readRes, h]

theorem cpuTest_next {op : Instr} {i : RegIx} {test : Byte → Bool} {s t : State} (h : cpuTest op i test s = .next t) :
    ∃ v, s.regs.get i = .byte v ∧ t = ((s.record .cpu .rd i v).setRes (boolByte (test v))).cpuDone := by
  obtain ⟨v, hv, hk⟩ := portRead_next h
  exact ⟨v, hv, (Host.Outcome.next.inj hk).symm⟩

theorem cpuLoad_next {op : Instr} {i : RegIx} {s t : State} (h : cpuLoad op i s = .next t) :
    ∃ v, s.regs.get i = .byte v ∧ t = ((s.record .cpu .rd i v).setRes v).cpuDone := by
  obtain ⟨v, hv, hk⟩ := portRead_next h
  exact ⟨v, hv, (Host.Outcome.next.inj hk).symm⟩

theorem probeStore_next {i : RegIx} {v : Byte} {s t : State} (h : probeStore i v s = .next t) :
    t = (s.probeWrite i v).probeDone :=
  (Host.Outcome.next.inj h).symm

/-- A program word placed at an index is the one fetched there. -/
theorem placeWord_getElem (prog : List CmdWord) (n : Nat) (w : CmdWord) : (placeWord prog n w)[n]? = some w := by
  have hl : (prog.take n ++ List.replicate (n - prog.length) 0).length = n := by simp; omega
  rw [placeWord, List.getElem?_append_right (by omega), hl]
  simp

/-- The CPU agent's step, in the four ways it can answer a next state (R204). -/
theorem cpuStep_next {s t : State} (h : cpuStep s = .next t) :
    (s.halted = true ∧ t = s) ∨
    (∃ op ph lat, s.halted = false ∧ s.cur = .busy op ph lat ∧ exec op s = .next t) ∨
    (∃ w i, s.halted = false ∧ s.cur = .idle ∧ s.fetch = some w ∧ decodeFor .cpu w = .ok i ∧ exec i s = .next t) := by
  unfold cpuStep at h
  split at h
  · exact .inl ⟨‹_›, (Host.Outcome.next.inj h).symm⟩
  · have hh : s.halted = false := by simpa using ‹¬s.halted = true›
    split at h
    · exact .inr (.inl ⟨_, _, _, hh, ‹_›, h⟩)
    · split at h
      · cases h
      · split at h
        · cases h
        · exact .inr (.inr ⟨_, _, hh, ‹_›, ‹_›, ‹_›, h⟩)

/-- The probe agent's step, in the three ways it can answer a next state (R24, R88). -/
theorem probeStep_next {s t : State} (h : probeStep s = .next t) :
    (s.pcur = .idle ∧ s.psched = [] ∧ t = s) ∨
    (∃ op ph lat, s.pcur = .busy op ph lat ∧ exec op s = .next t) ∨
    (∃ w ws i, s.pcur = .idle ∧ s.psched = w :: ws ∧ decodeFor .probe w = .ok i ∧ exec i { s with psched := ws } = .next t) := by
  unfold probeStep at h
  split at h
  · exact .inr (.inl ⟨_, _, _, ‹_›, h⟩)
  · split at h
    · exact .inl ⟨‹_›, ‹_›, (Host.Outcome.next.inj h).symm⟩
    · split at h
      · cases h
      · exact .inr (.inr ⟨_, _, _, ‹_›, ‹_›, ‹_›, h⟩)

/-- A step is one agent's, after its turn is used up (R67). -/
theorem step_next {s t : State} (h : step s = .next t) :
    (s.turn = .cpu ∧ cpuStep s.takeTurn = .next t) ∨ (s.turn = .probe ∧ probeStep s.takeTurn = .next t) := by
  unfold step agentStep at h
  split at h
  · exact .inl ⟨‹_›, h⟩
  · exact .inr ⟨‹_›, h⟩

/-- What decoding in an agent's list accepts is an operation of that agent (R84). -/
theorem decodeFor_ok {a : Agent} {w : CmdWord} {i : Instr} (h : decodeFor a w = .ok i) : decode w = .ok i ∧ i.agent = a := by
  unfold decodeFor at h
  split at h
  · cases h
  · rename_i j hj
    split at h
    · rename_i hw
      injection h with h
      subst h
      exact ⟨hj, beq_iff_eq.mp hw⟩
    · cases h

/-- What every operation keeps, and the use of a turn and of a schedule's first word too, every step keeps. -/
theorem step_keeps {P : State → Prop} (hexec : ∀ i s t, P s → exec i s = .next t → P t)
    (hturn : ∀ s : State, P s → P s.takeTurn) (hsched : ∀ (s : State) ws, P s → P { s with psched := ws }) :
    ∀ s t, P s → step s = .next t → P t := by
  intro s t hs h
  rcases step_next h with ⟨_, h⟩ | ⟨_, h⟩
  · rcases cpuStep_next h with ⟨_, rfl⟩ | ⟨_, _, _, _, _, h⟩ | ⟨_, _, _, _, _, _, h⟩
    · exact hturn _ hs
    · exact hexec _ _ _ (hturn _ hs) h
    · exact hexec _ _ _ (hturn _ hs) h
  · rcases probeStep_next h with ⟨_, _, rfl⟩ | ⟨_, _, _, _, h⟩ | ⟨_, _, _, _, _, _, h⟩
    · exact hturn _ hs
    · exact hexec _ _ _ (hturn _ hs) h
    · exact hexec _ _ _ (hsched _ _ (hturn _ hs)) h

end Sys2Proof.Machine
end

