-- ==== Sys2Proof/Laws/Words.lean ====
section
/-!
SUPPORT. Command words and fields: each is recovered from the other, and a format's mask keeps the row's pattern of a word whose
unused fields are zero (R80, R81, R83).
-/

namespace Sys2Proof

@[simp] theorem RegIx.ofBits_bits (r : RegIx) : RegIx.ofBits r.bits = r := by
  cases r <;> decide

@[simp] theorem RegIx.bits_ofBits (b : BitVec 2) : (RegIx.ofBits b).bits = b := by
  revert b; decide

/-- The fields of the word made of fields are those fields. -/
@[simp] theorem fieldsOf_wordOf (f : Fields) : fieldsOf (wordOf f) = f := by
  obtain ⟨op, r, imm⟩ := f
  simp only [fieldsOf, wordOf, Fields.mk.injEq]
  refine ⟨?_, ?_, ?_⟩ <;> refine BitVec.eq_of_getLsbD_eq fun i hi => ?_
  · have : i < 6 := hi
    interval_cases i <;> simp
  · have : i < 2 := hi
    interval_cases i <;> simp
  · have : i < 8 := hi
    interval_cases i <;> simp

/-- The word made of a word's fields is that word. -/
@[simp] theorem wordOf_fieldsOf (w : CmdWord) : wordOf (fieldsOf w) = w := by
  simp only [fieldsOf, wordOf]
  refine BitVec.eq_of_getLsbD_eq fun i hi => ?_
  interval_cases i <;> simp

/-- The compared bits of a word whose unused fields are zero are its operation code's (R83). -/
theorem wordOf_and_mask (f : Fields) (fmt : Format) (h : fmt.unusedZero f = true) :
    wordOf f &&& fmt.mask = wordOf { op := f.op, r := 0, imm := 0 } := by
  obtain ⟨op, r, imm⟩ := f
  refine BitVec.eq_of_getLsbD_eq fun i hi => ?_
  cases fmt <;> simp [Format.unusedZero] at h <;> simp [wordOf, Format.mask, h] <;> interval_cases i <;> simp

/-- The encoder leaves every field zero that the operation's format does not use (R81). -/
theorem Instr.fields_unusedZero (i : Instr) : i.format.unusedZero i.fields = true := by
  cases i <;> simp [Instr.format, Instr.fields, Format.unusedZero]

/-- `op[5]` of an operation's code is its agent (R80). -/
theorem Instr.fields_op_agent (i : Instr) : i.fields.op.getLsbD 5 = (i.agent == .probe) := by
  cases i <;> simp only [Instr.fields, Instr.agent] <;> decide

/-- A word is made of one choice of fields only. -/
theorem wordOf_inj {f g : Fields} : wordOf f = wordOf g ↔ f = g :=
  ⟨fun h => by simpa using congrArg fieldsOf h, fun h => h ▸ rfl⟩

/-- What a format's mask keeps of any word: the code, and the fields that must be zero (R81, R83). -/
theorem wordOf_and_mask_any (op : BitVec 6) (r : BitVec 2) (imm : Byte) (fmt : Format) :
    wordOf ⟨op, r, imm⟩ &&& fmt.mask = wordOf (match fmt with
      | .n => ⟨op, r, imm⟩
      | .r => ⟨op, 0, imm⟩
      | .ri => ⟨op, 0, 0⟩
      | .i => ⟨op, r, 0⟩) := by
  refine BitVec.eq_of_getLsbD_eq fun i hi => ?_
  cases fmt <;> simp [wordOf, Format.mask] <;> interval_cases i <;> simp

/-- A row selects a word exactly when the word has its code and zero unused fields (R83). -/
theorem OpRow.selects_iff (k : OpRow) (w : CmdWord) :
    k.selects w = true ↔ k.op = (fieldsOf w).op ∧ k.fmt.unusedZero (fieldsOf w) = true := by
  rw [← wordOf_fieldsOf w]
  generalize fieldsOf w = f
  obtain ⟨op, r, imm⟩ := f
  obtain ⟨name, code, fmt, make⟩ := k
  simp only [fieldsOf_wordOf, OpRow.selects, OpRow.pattern, wordOf_and_mask_any, beq_iff_eq]
  rw [wordOf_inj, @eq_comm _ code op]
  cases fmt <;> simp [Format.unusedZero]

/-- The rows of the opcode map differ in their codes (R83). -/
theorem opTable_codes : opTable.Pairwise fun k l => k.op ≠ l.op := by decide

/-- A row is found by its code. -/
theorem opTable_find {k : OpRow} (hk : k ∈ opTable) : opTable.find? (fun j => j.op == k.op) = some k := by
  have hs : (opTable.find? fun j => j.op == k.op).isSome := by
    rw [List.find?_isSome]
    exact ⟨k, hk, by simp⟩
  obtain ⟨j, hj⟩ := Option.isSome_iff_exists.1 hs
  have he : j.op = k.op := by simpa using List.find?_some hj
  have : Std.Symm fun k l : OpRow => k.op ≠ l.op := ⟨fun _ _ h => Ne.symm h⟩
  by_cases h : j = k
  · rw [hj, h]
  · exact absurd he (opTable_codes.forall (List.mem_of_find?_eq_some hj) hk h)

end Sys2Proof
end

