-- ==== Sys2Proof/Laws/PerInstr.lean ====
section
/-!
SUPPORT. One family of facts about every operation as syntax: its word is selected by a row of the opcode map of its own format, the
row that makes it (R83).
-/

namespace Sys2Proof.Laws.RowPattern

/-- Some row of the opcode map has the operation's format, makes it from its operand fields, and selects its word. -/
def Statement (i : Instr) : Prop :=
  ∃ k ∈ opTable, k.fmt = i.format ∧ k.make (RegIx.ofBits i.fields.r) i.fields.imm = i ∧ k.selects (encode i) = true

/-- A row with the operation's code and format selects its word. -/
theorem of_row {i : Instr} {k : OpRow} (hk : k ∈ opTable) (hf : k.fmt = i.format) (ho : k.op = i.fields.op)
    (hm : k.make (RegIx.ofBits i.fields.r) i.fields.imm = i) : Statement i := by
  refine ⟨k, hk, hf, hm, ?_⟩
  have h := wordOf_and_mask i.fields i.format i.fields_unusedZero
  simp [OpRow.selects, OpRow.pattern, encode, hf, ho, h]

theorem crd (r : RegIx) : Statement (.crd r) :=
  of_row (List.mem_append_left _ (List.getElem_mem (l := cpuRows) (n := 0) (by decide))) rfl rfl (by simp [Instr.fields, cpuRows])

theorem cwr (r : RegIx) (imm : Byte) : Statement (.cwr r imm) :=
  of_row (List.mem_append_left _ (List.getElem_mem (l := cpuRows) (n := 1) (by decide))) rfl rfl (by simp [Instr.fields, cpuRows])

theorem cbs (r : RegIx) (m : Byte) : Statement (.cbs r m) :=
  of_row (List.mem_append_left _ (List.getElem_mem (l := cpuRows) (n := 2) (by decide))) rfl rfl (by simp [Instr.fields, cpuRows])

theorem cbc (r : RegIx) (m : Byte) : Statement (.cbc r m) :=
  of_row (List.mem_append_left _ (List.getElem_mem (l := cpuRows) (n := 3) (by decide))) rfl rfl (by simp [Instr.fields, cpuRows])

theorem lenrx : Statement (.lenrx) :=
  of_row (List.mem_append_left _ (List.getElem_mem (l := cpuRows) (n := 4) (by decide))) rfl rfl (rfl)

theorem lentx : Statement (.lentx) :=
  of_row (List.mem_append_left _ (List.getElem_mem (l := cpuRows) (n := 5) (by decide))) rfl rfl (rfl)

theorem lfulrx : Statement (.lfulrx) :=
  of_row (List.mem_append_left _ (List.getElem_mem (l := cpuRows) (n := 6) (by decide))) rfl rfl (rfl)

theorem lbsytx : Statement (.lbsytx) :=
  of_row (List.mem_append_left _ (List.getElem_mem (l := cpuRows) (n := 7) (by decide))) rfl rfl (rfl)

theorem lsettx : Statement (.lsettx) :=
  of_row (List.mem_append_left _ (List.getElem_mem (l := cpuRows) (n := 8) (by decide))) rfl rfl (rfl)

theorem lclrrx : Statement (.lclrrx) :=
  of_row (List.mem_append_left _ (List.getElem_mem (l := cpuRows) (n := 9) (by decide))) rfl rfl (rfl)

theorem lrdrx : Statement (.lrdrx) :=
  of_row (List.mem_append_left _ (List.getElem_mem (l := cpuRows) (n := 10) (by decide))) rfl rfl (rfl)

theorem lwrtx (b : Byte) : Statement (.lwrtx b) :=
  of_row (List.mem_append_left _ (List.getElem_mem (l := cpuRows) (n := 11) (by decide))) rfl rfl (by simp [Instr.fields, cpuRows])

theorem enrx : Statement (.enrx) :=
  of_row (List.mem_append_left _ (List.getElem_mem (l := cpuRows) (n := 12) (by decide))) rfl rfl (rfl)

theorem entx : Statement (.entx) :=
  of_row (List.mem_append_left _ (List.getElem_mem (l := cpuRows) (n := 13) (by decide))) rfl rfl (rfl)

theorem poll : Statement (.poll) :=
  of_row (List.mem_append_left _ (List.getElem_mem (l := cpuRows) (n := 14) (by decide))) rfl rfl (rfl)

theorem recv : Statement (.recv) :=
  of_row (List.mem_append_left _ (List.getElem_mem (l := cpuRows) (n := 15) (by decide))) rfl rfl (rfl)

theorem xmit (b : Byte) : Statement (.xmit b) :=
  of_row (List.mem_append_left _ (List.getElem_mem (l := cpuRows) (n := 16) (by decide))) rfl rfl (by simp [Instr.fields, cpuRows])

theorem xmitr : Statement (.xmitr) :=
  of_row (List.mem_append_left _ (List.getElem_mem (l := cpuRows) (n := 17) (by decide))) rfl rfl (rfl)

theorem jmp (t : Byte) : Statement (.jmp t) :=
  of_row (List.mem_append_left _ (List.getElem_mem (l := cpuRows) (n := 18) (by decide))) rfl rfl (by simp [Instr.fields, cpuRows])

theorem jz (t : Byte) : Statement (.jz t) :=
  of_row (List.mem_append_left _ (List.getElem_mem (l := cpuRows) (n := 19) (by decide))) rfl rfl (by simp [Instr.fields, cpuRows])

theorem jnz (t : Byte) : Statement (.jnz t) :=
  of_row (List.mem_append_left _ (List.getElem_mem (l := cpuRows) (n := 20) (by decide))) rfl rfl (by simp [Instr.fields, cpuRows])

theorem halt : Statement (.halt) :=
  of_row (List.mem_append_left _ (List.getElem_mem (l := cpuRows) (n := 21) (by decide))) rfl rfl (rfl)

theorem prd (r : RegIx) : Statement (.prd r) :=
  of_row (List.mem_append_right _ (List.getElem_mem (l := probeRows) (n := 0) (by decide))) rfl rfl (by simp [Instr.fields, probeRows])

theorem pwr (r : RegIx) (imm : Byte) : Statement (.pwr r imm) :=
  of_row (List.mem_append_right _ (List.getElem_mem (l := probeRows) (n := 1) (by decide))) rfl rfl (by simp [Instr.fields, probeRows])

theorem attrx : Statement (.attrx) :=
  of_row (List.mem_append_right _ (List.getElem_mem (l := probeRows) (n := 2) (by decide))) rfl rfl (rfl)

theorem detrx : Statement (.detrx) :=
  of_row (List.mem_append_right _ (List.getElem_mem (l := probeRows) (n := 3) (by decide))) rfl rfl (rfl)

theorem atttx : Statement (.atttx) :=
  of_row (List.mem_append_right _ (List.getElem_mem (l := probeRows) (n := 4) (by decide))) rfl rfl (rfl)

theorem dettx : Statement (.dettx) :=
  of_row (List.mem_append_right _ (List.getElem_mem (l := probeRows) (n := 5) (by decide))) rfl rfl (rfl)

theorem putrx (b : Byte) : Statement (.putrx b) :=
  of_row (List.mem_append_right _ (List.getElem_mem (l := probeRows) (n := 6) (by decide))) rfl rfl (by simp [Instr.fields, probeRows])

theorem taketx : Statement (.taketx) :=
  of_row (List.mem_append_right _ (List.getElem_mem (l := probeRows) (n := 7) (by decide))) rfl rfl (rfl)

theorem pclrst : Statement (.pclrst) :=
  of_row (List.mem_append_right _ (List.getElem_mem (l := probeRows) (n := 8) (by decide))) rfl rfl (rfl)

end Sys2Proof.Laws.RowPattern
end

