-- ==== Sys2Proof/Laws/Runs.lean ====
section
/-!
SUPPORT. The induction over an infinite run, done once, and what a feed leaves of a state's invariants.
-/

namespace Sys2Proof.Machine

/-- What holds at one state of a run, and what every step and every feed keeps, holds from there on. -/
theorem isRunOf_keeps {f : Nat → Feed} {r : Nat → State} {n : Nat} {P : State → Prop} (hr : IsRunOf f r) (h0 : P (r n))
    (hstep : ∀ s t, P s → step s = .next t → P t) (hfeed : ∀ s g, P s → P (s.feed g)) : ∀ m, n ≤ m → P (r m) := by
  intro m hm
  induction m, hm using Nat.le_induction with
  | base => exact h0
  | succ m _ ih =>
    obtain ⟨t, ht, h⟩ := hr m
    rw [h]
    exact hfeed _ _ (hstep _ _ ih ht)

theorem inv_feed {s : State} (h : s.Inv) (g : Feed) : (s.feed g).Inv := h

theorem coherent_feed {s : State} (h : s.Coherent) (g : Feed) : (s.feed g).Coherent := h

theorem rxFullOnlyEnabled_feed {s : State} (h : s.RxFullOnlyEnabled) (g : Feed) : (s.feed g).RxFullOnlyEnabled := h

/-- The words of a list avoid what both parts of it avoid. -/
theorem wordsAvoid_append (bad : Instr → Bool) (ws vs : List CmdWord) :
    wordsAvoid bad (ws ++ vs) = (wordsAvoid bad ws && wordsAvoid bad vs) := List.all_append

/-- The ledger agrees with the enables at the start of a conforming run: nothing is attached (R190). -/
theorem conformingRun_start {f : Nat → Feed} {r : Nat → State} (h : ConformingRun f r) (d : Dir) :
    chanEn (r 0).cfg (r 0).regs d = (⟨false, false⟩ : Ledger).on d := by
  rw [h.2.2.1 d]
  cases d <;> rfl

end Sys2Proof.Machine
end

