-- ==== Sys2Proof/Tests/Slice0.lean ====
section
/-!
SUPPORT. Tests of one step each, with the results the spec's own vectors give (95_test_vectors.md, whose row ids the names' comments
cite) or its encodings, and a witness of the hypotheses of every statement that has some.
-/

namespace Sys2Proof.Tests

open Sys2Proof.Machine

/-! ### Helpers -/

/-- An instance of a variant, with the vectors' parameters (`C_EN` = 0x02). -/
def cfgOf (v : Variant) (st : Bool) : Config :=
  { Config.build with variant := v, statusSetOnCpuWrite := st }

/-- The state after reset but for the four registers. -/
def regsAre (v : Variant) (r0 : Byte) (r1 : Content) (r2 : Byte) (r3 : Content) : State :=
  { State.resetOf (cfgOf v true) with regs := ⟨r0, r1, r2, r3⟩ }

/-- Only register 0 differs from reset. -/
def r0Is (v : Variant) (r0 : Byte) : State :=
  regsAre v r0 .unwritten 0x00 .unwritten

/-- Only register 2 differs from reset. -/
def r2Is (v : Variant) (r2 : Byte) : State :=
  regsAre v 0x00 .unwritten r2 .unwritten

/-- The same state with a status that a CPU write of `MSG` does not set. -/
def noSet (s : State) : State :=
  { s with cfg := { s.cfg with statusSetOnCpuWrite := false } }

/-- One field of the next state. -/
def after {α : Type} (f : State → α) (o : Out) : Option α :=
  match o with
  | .next t => some (f t)
  | .fault _ => none
  | .refused _ => none

/-- The fault a step ends in. -/
def faultOf (o : Out) : Option Fault :=
  match o with
  | .next _ => none
  | .fault q => some q
  | .refused _ => none

/-- The refusal a step ends in. -/
def refusalOf (o : Out) : Option Refusal :=
  match o with
  | .next _ => none
  | .fault _ => none
  | .refused q => some q

/-- `res` of the next state. -/
def resAfter : Out → Option Content := after (·.res)

/-- The registers of the next state. -/
def regsAfter : Out → Option RegFile := after (·.regs)

/-! ### WellFormed: an ill-formed term for each check -/

theorem test_unused_n : Format.n.unusedZero ⟨0x12, 0, 0x01⟩ = false ∧ Format.n.unusedZero ⟨0x12, 1, 0⟩ = false := by decide
theorem test_unused_r : Format.r.unusedZero ⟨0x01, 3, 0x01⟩ = false ∧ Format.r.unusedZero ⟨0x01, 3, 0⟩ = true := by decide
theorem test_unused_ri : Format.ri.unusedZero ⟨0x02, 3, 0xFF⟩ = true := by decide
theorem test_unused_i : Format.i.unusedZero ⟨0x14, 1, 0x41⟩ = false ∧ Format.i.unusedZero ⟨0x14, 0, 0x41⟩ = true := by decide
theorem test_wrong_agent : Instr.poll.wellFormedFor .probe = false ∧ Instr.attrx.wellFormedFor .cpu = false := by decide
theorem test_program_too_long : programWf (List.replicate 257 0x7C00) = false ∧ programWf (List.replicate 256 0x7C00) = true := by
  refine ⟨?_, ?_⟩ <;> rw [programWf, List.length_replicate] <;> decide
theorem test_addresses_collide : { Config.build with addr3 := 1 }.wf = false ∧ Config.build.wf = true := by decide

/-! ### Decode: a word of every row, written out from the opcode map (R83), and the vectors 2.1 -/

theorem test_decode_crd : decodeFor .cpu 0b0000010100000000 = .ok (.crd .r1) := by decide
theorem test_decode_cwr : decodeFor .cpu 0b0000101101000001 = .ok (.cwr .r3 0x41) := by decide
theorem test_decode_cbs : decodeFor .cpu 0b0000111000000001 = .ok (.cbs .r2 0x01) := by decide
theorem test_decode_cbc : decodeFor .cpu 0b0001000011111111 = .ok (.cbc .r0 0xFF) := by decide
theorem test_decode_lenrx : decodeFor .cpu 0b0010000000000000 = .ok .lenrx := by decide
theorem test_decode_lentx : decodeFor .cpu 0b0010010000000000 = .ok .lentx := by decide
theorem test_decode_lfulrx : decodeFor .cpu 0b0010100000000000 = .ok .lfulrx := by decide
theorem test_decode_lbsytx : decodeFor .cpu 0b0010110000000000 = .ok .lbsytx := by decide
theorem test_decode_lsettx : decodeFor .cpu 0b0011000000000000 = .ok .lsettx := by decide
theorem test_decode_lclrrx : decodeFor .cpu 0b0011010000000000 = .ok .lclrrx := by decide
theorem test_decode_lrdrx : decodeFor .cpu 0b0011100000000000 = .ok .lrdrx := by decide
theorem test_decode_lwrtx : decodeFor .cpu 0b0011110001000001 = .ok (.lwrtx 0x41) := by decide
theorem test_decode_enrx : decodeFor .cpu 0b0100000000000000 = .ok .enrx := by decide
theorem test_decode_entx : decodeFor .cpu 0b0100010000000000 = .ok .entx := by decide
theorem test_decode_poll : decodeFor .cpu 0b0100100000000000 = .ok .poll := by decide
theorem test_decode_recv : decodeFor .cpu 0b0100110000000000 = .ok .recv := by decide
theorem test_decode_xmit : decodeFor .cpu 0b0101000001000001 = .ok (.xmit 0x41) := by decide
theorem test_decode_xmitr : decodeFor .cpu 0b0101010000000000 = .ok .xmitr := by decide
theorem test_decode_jmp : decodeFor .cpu 0b0110000000000111 = .ok (.jmp 7) := by decide
theorem test_decode_jz : decodeFor .cpu 0b0110010000000010 = .ok (.jz 2) := by decide
theorem test_decode_jnz : decodeFor .cpu 0b0110100000000111 = .ok (.jnz 7) := by decide
theorem test_decode_halt : decodeFor .cpu 0b0111110000000000 = .ok .halt := by decide
theorem test_decode_prd : decodeFor .probe 0b1000001100000000 = .ok (.prd .r3) := by decide
theorem test_decode_pwr : decodeFor .probe 0b1000011000000001 = .ok (.pwr .r2 0x01) := by decide
theorem test_decode_attrx : decodeFor .probe 0b1010000000000000 = .ok .attrx := by decide
theorem test_decode_detrx : decodeFor .probe 0b1010010000000000 = .ok .detrx := by decide
theorem test_decode_atttx : decodeFor .probe 0b1010100000000000 = .ok .atttx := by decide
theorem test_decode_dettx : decodeFor .probe 0b1010110000000000 = .ok .dettx := by decide
theorem test_decode_putrx : decodeFor .probe 0b1011000000101011 = .ok (.putrx 0x2B) := by decide
theorem test_decode_taketx : decodeFor .probe 0b1011010000000000 = .ok .taketx := by decide
theorem test_decode_pclrst : decodeFor .probe 0b1011100000000000 = .ok .pclrst := by decide
theorem test_decode_reserved :
    decodeFor .cpu 0x0000 = .error .reservedOpcode ∧ decodeFor .cpu 0x1400 = .error .reservedOpcode ∧
    decodeFor .cpu 0x5800 = .error .reservedOpcode ∧ decodeFor .cpu 0x7800 = .error .reservedOpcode ∧
    decodeFor .probe 0x8800 = .error .reservedOpcode ∧ decodeFor .probe 0xBC00 = .error .reservedOpcode ∧
    decodeFor .probe 0xFFFF = .error .reservedOpcode := by decide
theorem test_decode_unused :
    decodeFor .cpu 0x4801 = .error .nonzeroUnusedField ∧ decodeFor .cpu 0x0401 = .error .nonzeroUnusedField ∧
    decodeFor .cpu 0x5141 = .error .nonzeroUnusedField ∧ decodeFor .cpu 0x7C01 = .error .nonzeroUnusedField ∧
    decodeFor .cpu 0xA001 = .error .nonzeroUnusedField := by decide
theorem test_decode_wrong_agent :
    decodeFor .cpu 0xA000 = .error .wrongAgent ∧ decodeFor .probe 0x4800 = .error .wrongAgent := by decide

/-! ### CPU-port accesses (vectors 2.2) -/

/-- CP1, CP4. -/
theorem test_crd : resAfter (exec (.crd .r0) (r0Is .A 0x03)) = some (.byte 0x03) ∧
    resAfter (exec (.crd .r2) (r2Is .C 0x01)) = some (.byte 0x01) := by decide
/-- CP2, CP5. -/
theorem test_crd_stops : faultOf (exec (.crd .r1) (r0Is .A 0x00)) = some (.unwrittenRead ⟨.cpu, some 0x0500, some 0, some .r1⟩) ∧
    refusalOf (exec (.crd .r3) (regsAre .C 0x00 .unwritten 0x00 (.byte 0x41))) = some .unmodelledRead := by decide
/-- CP9, CP10. -/
theorem test_cwr_status : regsAfter (exec (.cwr .r3 0x41) (r0Is .C 0x00)) = some ⟨0x00, .unwritten, 0x01, .byte 0x41⟩ ∧
    regsAfter (exec (.cwr .r3 0x41) (noSet (r0Is .C 0x00))) = some ⟨0x00, .unwritten, 0x00, .byte 0x41⟩ := by decide
/-- CP6, CP8. -/
theorem test_cwr : regsAfter (exec (.cwr .r1 0x55) (r0Is .A 0x00)) = some ⟨0x00, .byte 0x55, 0x00, .unwritten⟩ ∧
    refusalOf (exec (.cwr .r2 0x00) (r0Is .C 0x00)) = some .readOnlyWrite := by decide
/-- CP11, CP13. -/
theorem test_cbs : regsAfter (exec (.cbs .r2 0x01) (r2Is .A 0x02)) = some ⟨0x00, .unwritten, 0x03, .unwritten⟩ ∧
    after (·.history) (exec (.cbs .r2 0x00) (r2Is .A 0x02)) = some [⟨.cpu, .rmw, .r2, 0x02⟩] := by decide
/-- CP14, CP18. -/
theorem test_cbs_stops : faultOf (exec (.cbs .r1 0x01) (r0Is .A 0x00)) = some (.unwrittenRead ⟨.cpu, some 0x0D01, some 0, some .r1⟩) ∧
    refusalOf (exec (.cbs .r3 0x01) (regsAre .C 0x00 .unwritten 0x00 (.byte 0x41))) = some .unmodelledRead := by decide
/-- CP15, CP16. -/
theorem test_cbc : regsAfter (exec (.cbc .r0 0x01) (r0Is .B 0x03)) = some ⟨0x02, .unwritten, 0x00, .unwritten⟩ ∧
    regsAfter (exec (.cbc .r0 0xFF) (r0Is .A 0x03)) = some ⟨0x00, .unwritten, 0x00, .unwritten⟩ := by decide
/-- CP17. -/
theorem test_cbc_stops : refusalOf (exec (.cbc .r2 0x01) (r0Is .C 0x00)) = some .readOnlyWrite := by decide

/-! ### Layout primitives (vectors 2.3) -/

/-- LP1, LP2, LP3. -/
theorem test_lenrx : resAfter (exec .lenrx (r0Is .A 0x01)) = some (.byte 0x00) ∧
    resAfter (exec .lenrx (r0Is .A 0x02)) = some (.byte 0x01) ∧
    resAfter (exec .lenrx (r0Is .C 0x02)) = some (.byte 0x01) := by decide
/-- LP3, LP4, LP5, LP6. -/
theorem test_lentx : resAfter (exec .lentx (r0Is .C 0x02)) = some (.byte 0x01) ∧
    resAfter (exec .lentx (r0Is .C 0x01)) = some (.byte 0x00) ∧
    resAfter (exec .lentx (r2Is .A 0x01)) = some (.byte 0x00) ∧
    resAfter (exec .lentx (r2Is .B 0x02)) = some (.byte 0x01) := by decide
/-- LP7, LP8. -/
theorem test_lfulrx : resAfter (exec .lfulrx (r0Is .B 0x01)) = some (.byte 0x01) ∧
    resAfter (exec .lfulrx (r0Is .C 0x02)) = some (.byte 0x00) := by decide
/-- LP9, LP10, LP11. -/
theorem test_lbsytx : resAfter (exec .lbsytx (r2Is .A 0x03)) = some (.byte 0x01) ∧
    resAfter (exec .lbsytx (r2Is .C 0x80)) = some (.byte 0x01) ∧
    resAfter (exec .lbsytx (r2Is .C 0x00)) = some (.byte 0x00) := by decide
/-- LP12, LP13, LP14. -/
theorem test_lsettx : regsAfter (exec .lsettx (r2Is .A 0x02)) = some ⟨0x00, .unwritten, 0x03, .unwritten⟩ ∧
    regsAfter (exec .lsettx (r2Is .A 0x00)) = some ⟨0x00, .unwritten, 0x01, .unwritten⟩ ∧
    refusalOf (exec .lsettx (r2Is .C 0x00)) = some .notInVariant := by decide
/-- LP15, LP16. -/
theorem test_lclrrx : regsAfter (exec .lclrrx (r0Is .C 0x03)) = some ⟨0x02, .unwritten, 0x00, .unwritten⟩ ∧
    regsAfter (exec .lclrrx (r0Is .A 0x02)) = some ⟨0x02, .unwritten, 0x00, .unwritten⟩ := by decide
/-- LP17, LP18. -/
theorem test_lrdrx : faultOf (exec .lrdrx (r0Is .A 0x00)) = some (.unwrittenRead ⟨.cpu, some 0x3800, some 0, some .r1⟩) ∧
    resAfter (exec .lrdrx (regsAre .B 0x00 (.byte 0x2B) 0x00 .unwritten)) = some (.byte 0x2B) := by decide
/-- LP19, LP20. -/
theorem test_lwrtx : regsAfter (exec (.lwrtx 0x41) (r2Is .A 0x02)) = some ⟨0x00, .unwritten, 0x02, .byte 0x41⟩ ∧
    regsAfter (exec (.lwrtx 0x41) (r2Is .C 0x00)) = some ⟨0x00, .unwritten, 0x01, .byte 0x41⟩ := by decide

/-! ### Channel operations (vectors 2.4) -/

/-- EN1 to EN4. -/
theorem test_enrx : resAfter (exec .enrx (r0Is .A 0x02)) = some (.byte 0x01) ∧
    resAfter (exec .enrx (r0Is .B 0x01)) = some (.byte 0x00) ∧
    resAfter (exec .enrx (r0Is .C 0x02)) = some (.byte 0x01) ∧
    resAfter (exec .enrx (r0Is .C 0x01)) = some (.byte 0x00) := by decide
/-- EN1 to EN4. -/
theorem test_entx : resAfter (exec .entx (regsAre .A 0x02 .unwritten 0x00 .unwritten)) = some (.byte 0x00) ∧
    resAfter (exec .entx (regsAre .B 0x01 .unwritten 0x03 .unwritten)) = some (.byte 0x01) ∧
    resAfter (exec .entx (r0Is .C 0x02)) = some (.byte 0x01) ∧
    resAfter (exec .entx (r0Is .C 0x01)) = some (.byte 0x00) := by decide
/-- The table of `POLL`, Variant B. -/
theorem test_poll_b : ([0x00, 0x01, 0x02, 0x03, 0x07, 0x83] : List Byte).map (fun v => resAfter (exec .poll (r0Is .B v))) =
    ([0x00, 0x00, 0x00, 0x01, 0x00, 0x00] : List Byte).map (fun b => some (.byte b)) := by decide
/-- The table of `POLL`, Variants A and C. -/
theorem test_poll_ac : ([0x00, 0x01, 0x02, 0x03, 0x07, 0x83] : List Byte).map (fun v => resAfter (exec .poll (r0Is .A v))) =
      ([0x00, 0x01, 0x00, 0x01, 0x01, 0x01] : List Byte).map (fun b => some (.byte b)) ∧
    ([0x00, 0x01, 0x02, 0x03, 0x07, 0x83] : List Byte).map (fun v => resAfter (exec .poll (r0Is .C v))) =
      ([0x00, 0x01, 0x00, 0x01, 0x01, 0x01] : List Byte).map (fun b => some (.byte b)) := by decide
/-- RV1, V2: the latched byte is returned and logged, and full is cleared. -/
theorem test_recv_v2 :
    after (fun t => (t.res, t.regs.r0, t.clog))
      (exec .recv { regsAre .A 0x03 (.byte 0x2B) 0x00 .unwritten with cur := .busy .recv .v2 (.byte 0x2B) }) =
    some (.byte 0x2B, 0x02, [0x2B]) := by decide
/-- RV4, RV5 at V0; RV8 at V1. -/
theorem test_recv_v0 : after (·.cur) (exec .recv (r0Is .A 0x01)) = some (.busy .recv .v1 .unwritten) ∧
    after (·.cur) (exec .recv (r0Is .B 0x01)) = some (.busy .recv .v0 .unwritten) ∧
    faultOf (exec .recv { r0Is .A 0x03 with cur := .busy .recv .v1 .unwritten }) =
      some (.unwrittenRead ⟨.cpu, some 0x4C00, some 0, some .r1⟩) := by decide
/-- XM1 at T1, XM4 and XM5 at T0. -/
theorem test_xmit_ab :
    regsAfter (exec (.xmit 0x41) { r2Is .A 0x02 with cur := .busy (.xmit 0x41) .t1 .unwritten }) =
      some ⟨0x00, .unwritten, 0x02, .byte 0x41⟩ ∧
    after (fun t => (t.cur, t.pc)) (exec (.xmit 0x41) (r2Is .A 0x01)) = some (.idle, 1) ∧
    after (·.cur) (exec (.xmit 0x41) (r2Is .A 0x03)) = some (.busy (.xmit 0x41) .t0 .unwritten) := by decide
/-- XM6 at T1, XM8 at T0, XM9 at TS. -/
theorem test_xmit_c :
    regsAfter (exec (.xmit 0x41) { r0Is .C 0x02 with cur := .busy (.xmit 0x41) .t1 .unwritten }) =
      some ⟨0x02, .unwritten, 0x01, .byte 0x41⟩ ∧
    after (fun t => (t.cur, t.pc)) (exec (.xmit 0x41) (r0Is .C 0x01)) = some (.idle, 1) ∧
    after (·.cur) (exec (.xmit 0x41) { regsAre .C 0x02 .unwritten 0x01 .unwritten with
      cur := .busy (.xmit 0x41) .ts .unwritten }) = some (.busy (.xmit 0x41) .t0 .unwritten) := by decide
/-- XR1. -/
theorem test_xmitr_unwritten : faultOf (exec .xmitr (r2Is .A 0x02)) = some (.resUnwritten ⟨.cpu, some 0x5400, some 0, none⟩) := by decide
/-- XR2 at T0, XR3 at T1. -/
theorem test_xmitr :
    after (·.cur) (exec .xmitr { r2Is .A 0x02 with res := .byte 0x2B }) = some (.busy .xmitr .t1 (.byte 0x2B)) ∧
    regsAfter (exec .xmitr { r0Is .C 0x02 with res := .byte 0x99, cur := .busy .xmitr .t1 (.byte 0x2B) }) =
      some ⟨0x02, .unwritten, 0x01, .byte 0x2B⟩ := by decide

/-! ### Control (vectors 2.6) -/

/-- H1. -/
theorem test_jmp : after (·.pc) (exec (.jmp 0x00) { r0Is .A 0x00 with pc := 5 }) = some 0 := by decide
/-- H3, H4. -/
theorem test_jz : after (·.pc) (exec (.jz 2) { r0Is .A 0x00 with pc := 3, res := .byte 0x00 }) = some 2 ∧
    after (·.pc) (exec (.jz 2) { r0Is .A 0x00 with pc := 3, res := .byte 0x2B }) = some 4 := by decide
/-- H2. -/
theorem test_jz_unwritten : faultOf (exec (.jz 2) (r0Is .A 0x00)) = some (.resUnwritten ⟨.cpu, some 0x6402, some 0, none⟩) := by decide
/-- H5, H6. -/
theorem test_jnz : after (·.pc) (exec (.jnz 0) { r0Is .A 0x00 with pc := 5, res := .byte 0x01 }) = some 0 ∧
    after (·.pc) (exec (.jnz 0) { r0Is .A 0x00 with pc := 5, res := .byte 0x00 }) = some 6 := by decide
/-- H7. -/
theorem test_halt : after (fun t => (t.halted, t.pc)) (exec .halt { r0Is .A 0x00 with pc := 6 }) = some (true, 6) := by decide
/-- H9, at the end of a one-word program. -/
theorem test_pc_out_of_program : faultOf (agentStep .cpu { r0Is .A 0x00 with prog := [0x4800], pc := 1 }) =
    some (.pcOutOfProgram ⟨.cpu, none, some 1, none⟩) := by decide

/-! ### The probe (vectors 2.5) -/

/-- PR1, PR3. -/
theorem test_prd : after (·.pres) (exec (.prd .r3) (regsAre .A 0x00 .unwritten 0x03 (.byte 0x41))) = some (.byte 0x41) ∧
    after (fun t => (t.pres, t.regs.r2)) (exec (.prd .r3) (regsAre .C 0x00 .unwritten 0x01 (.byte 0x41))) =
      some (.byte 0x41, 0x01) := by decide
/-- PR2. -/
theorem test_prd_unwritten : faultOf (exec (.prd .r1) (r0Is .A 0x00)) = some (.unwrittenRead ⟨.probe, some 0x8100, none, some .r1⟩) := by decide
/-- PW2, PW3. -/
theorem test_pwr : regsAfter (exec (.pwr .r2 0x01) (r0Is .C 0x00)) = some ⟨0x00, .unwritten, 0x01, .unwritten⟩ ∧
    regsAfter (exec (.pwr .r3 0x41) (r0Is .C 0x00)) = some ⟨0x00, .unwritten, 0x00, .byte 0x41⟩ := by decide
/-- AT1, AT2. -/
theorem test_attrx : regsAfter (exec .attrx (r0Is .A 0x01)) = some ⟨0x02, .unwritten, 0x00, .unwritten⟩ ∧
    regsAfter (exec .attrx (r0Is .C 0x01)) = some ⟨0x02, .unwritten, 0x00, .unwritten⟩ := by decide
/-- AT3, AT4. -/
theorem test_atttx : regsAfter (exec .atttx (r2Is .A 0x01)) = some ⟨0x00, .unwritten, 0x02, .unwritten⟩ ∧
    regsAfter (exec .atttx (r2Is .C 0x01)) = some ⟨0x02, .unwritten, 0x01, .unwritten⟩ := by decide
/-- DT1, DT2. -/
theorem test_detrx : regsAfter (exec .detrx (regsAre .B 0x03 (.byte 0x2B) 0x00 .unwritten)) = some ⟨0x00, .byte 0x2B, 0x00, .unwritten⟩ ∧
    regsAfter (exec .detrx (r0Is .C 0x03)) = some ⟨0x00, .unwritten, 0x00, .unwritten⟩ := by decide
/-- DT3; in C the status stays (R175). -/
theorem test_dettx : regsAfter (exec .dettx (regsAre .A 0x00 .unwritten 0x03 (.byte 0x41))) = some ⟨0x00, .unwritten, 0x00, .byte 0x41⟩ ∧
    regsAfter (exec .dettx (regsAre .C 0x02 .unwritten 0x01 .unwritten)) = some ⟨0x00, .unwritten, 0x01, .unwritten⟩ := by decide
/-- PU5, PU6 at P0. -/
theorem test_putrx_p0 : after (·.pcur) (exec (.putrx 0x2B) (r0Is .B 0x01)) = some .idle ∧
    after (·.pcur) (exec (.putrx 0x2B) (r0Is .A 0x03)) = some (.busy (.putrx 0x2B) .p0 .unwritten) := by decide
/-- PU3 at P1 and P2. -/
theorem test_putrx :
    regsAfter (exec (.putrx 0x2B) { r0Is .C 0x02 with pcur := .busy (.putrx 0x2B) .p1 .unwritten }) =
      some ⟨0x02, .byte 0x2B, 0x00, .unwritten⟩ ∧
    regsAfter (exec (.putrx 0x2B) { regsAre .C 0x02 (.byte 0x2B) 0x00 .unwritten with pcur := .busy (.putrx 0x2B) .p2 .unwritten }) =
      some ⟨0x03, .byte 0x2B, 0x00, .unwritten⟩ := by decide
/-- TK1 at P2, TK3 at P0. -/
theorem test_taketx_ab :
    after (fun t => (t.pres, t.plog, t.regs.r2))
      (exec .taketx { regsAre .A 0x00 .unwritten 0x03 (.byte 0x41) with pcur := .busy .taketx .p2 (.byte 0x41) }) =
      some (.byte 0x41, [0x41], 0x02) ∧
    after (·.pcur) (exec .taketx (r2Is .A 0x01)) = some .idle := by decide
/-- TK4 at P2, TK6 at P1, TK7. -/
theorem test_taketx_c :
    after (fun t => (t.plog, t.regs.r2))
      (exec .taketx { regsAre .C 0x02 .unwritten 0x01 (.byte 0x41) with pcur := .busy .taketx .p2 (.byte 0x41) }) = some ([0x41], 0x00) ∧
    faultOf (exec .taketx { r2Is .C 0x01 with pcur := .busy .taketx .p1 .unwritten }) =
      some (.unwrittenRead ⟨.probe, some 0xB400, none, some .r3⟩) ∧
    refusalOf (exec .taketx (noSet (r2Is .C 0x01))) = some .notInVariant := by decide
/-- CL1, CL2. -/
theorem test_pclrst : regsAfter (exec .pclrst (r2Is .C 0x01)) = some ⟨0x00, .unwritten, 0x00, .unwritten⟩ ∧
    refusalOf (exec .pclrst (r2Is .A 0x00)) = some .notInVariant := by decide

/-! ### The step, the host's placing of a word, the address binding, the assembler -/

/-- P1, interleaving 1, step 1: the probe takes the first word of its schedule. -/
theorem test_step_probe :
    after (fun t => (t.regs.r0, t.psched, t.turns)) (step { State.reset with psched := [0xA000, 0xB02B], turns := [.probe, .cpu] }) =
      some (0x02, [0xB02B], [.cpu]) := by decide
/-- A word placed for the next step runs as the first instruction after reset. -/
theorem test_placed_word : resAfter (step (State.reset.withFetchWord 16 0x4800)) = some (.byte 0x00) ∧
    after (·.regs.r0) (step (State.reset.withFetchWord 16 0xA000)) = some 0x02 := by decide
theorem test_table_word : decodeTableWord 16 0x5041 = some (.xmit 0x41) ∧ decodeTableWord 16 0 = none := by decide
/-- R69, R75, R62. -/
theorem test_bus : after id (busWrite .probe 2 1 0x55 (r0Is .A 0x00)) = some ((r0Is .A 0x00).probeWrite .r2 0x55) ∧
    refusalOf (busWrite .cpu 3 2 0x55 (r0Is .A 0x00)) = some .wideAccess ∧ refusalOf (busFetch 3 2 (r0Is .A 0x00)) = some .fetchFromBlock ∧
    refusalOf (busWrite .cpu 4 1 0x55 (r0Is .A 0x00)) = some .outsideBlock := by decide
/-- R87's examples, and a label. -/
theorem test_assembler : assemble .A "loop: POLL\n JZ #loop ; again\n XMIT #0x41".toList = some [0x4800, 0x6400, 0x5041] ∧
    assemble .A "CWR TXF, #0x02".toList = some [0x0A02] ∧ assemble .C "CWR TXF, #0x02".toList = none ∧
    assemble .A "PUTC #256".toList = none := by decide
theorem test_interleaving : interleaving "PC P".toList = some [.probe, .cpu, .probe] := by decide

/-! ### Witnesses: states that meet the hypotheses of the statements -/

theorem witness_decoded_word : decode 0x0B41 = .ok (.cwr .r3 0x41) ∧ decode 0x5141 = .error .nonzeroUnusedField ∧
    decode 0xB800 = .ok .pclrst ∧ decode 0xFFFF = .error .reservedOpcode := by decide

theorem witness_reset_meets_invariants : programWf [0x4800, 0x7C00] = true := by decide

theorem witness_step_follows_interleaving : (r0Is .A 0x00).turns = [] ∧ ({ r0Is .A 0x00 with turns := [.probe] }).turns = .probe :: [] := by
  decide

/-- A program of an operation and of a word that decoding refuses, with the CPU agent at an index. -/
def fetching (pc : Nat) : State :=
  { r0Is .A 0x00 with prog := [0x4800, 0xA000], pc := pc }

/-- A CPU agent that is halted, busy, past its program, at an operation, and at a refused word. -/
theorem witness_cpu_step :
    ({ fetching 0 with halted := true }).halted = true ∧
    (({ fetching 0 with cur := .busy .recv .v0 .unwritten }).halted = false ∧
      ({ fetching 0 with cur := .busy .recv .v0 .unwritten }).cur = .busy .recv .v0 .unwritten) ∧
    ((fetching 2).halted = false ∧ (fetching 2).cur = .idle ∧ (fetching 2).prog.length ≤ (fetching 2).pc) ∧
    ((fetching 0).halted = false ∧ (fetching 0).cur = .idle ∧ (fetching 0).prog[(fetching 0).pc]? = some 0x4800 ∧
      decodeFor .cpu 0x4800 = .ok .poll) ∧
    ((fetching 1).halted = false ∧ (fetching 1).cur = .idle ∧ (fetching 1).prog[(fetching 1).pc]? = some 0xA000 ∧
      decodeFor .cpu 0xA000 = .error .wrongAgent) := by decide

/-- A probe agent that is busy, done, at an action, and at a refused word. -/
theorem witness_probe_step :
    ({ r0Is .A 0x00 with pcur := .busy .taketx .p0 .unwritten }).pcur = .busy .taketx .p0 .unwritten ∧
    ((r0Is .A 0x00).pcur = .idle ∧ (r0Is .A 0x00).psched = []) ∧
    (({ r0Is .A 0x00 with psched := [0xA000] }).pcur = .idle ∧ decodeFor .probe 0xA000 = .ok .attrx) ∧
    (({ r0Is .A 0x00 with psched := [0x4800] }).pcur = .idle ∧ decodeFor .probe 0x4800 = .error .wrongAgent) := by decide

theorem witness_placed_word : Instr.poll.agent = .cpu ∧ Instr.attrx.agent = .probe := by decide

/-- A CPU agent in the middle of `XMIT`, a probe agent in the middle of `TAKETX`, and the CPU's turn. -/
def midway : State :=
  { regsAre .A 0x02 (.byte 0x2B) 0x02 .unwritten with
    prog := [0x5041, 0x7C00], cur := .busy (.xmit 0x41) .t1 .unwritten, pcur := .busy .taketx .p0 .unwritten
    turns := [.cpu], psched := [0xB02B] }

theorem witness_step_keeps_inv : midway.Inv ∧ isNext (step midway) = true := by
  refine ⟨⟨?_, ?_, ?_, ?_⟩, ?_⟩ <;> decide

/-- At the largest `pc` the invariant allows, the last word of a program of 256 words. -/
theorem witness_step_keeps_inv_at_the_end :
    ({ r0Is .A 0x00 with prog := List.replicate 256 0x4800, pc := 255, turns := [.cpu] }).Inv ∧
    (List.replicate 256 (0x4800 : CmdWord))[255]? = some 0x4800 := by
  refine ⟨⟨?_, ?_, ?_, ?_⟩, ?_⟩
  · rw [programWf, List.length_replicate]
    decide
  · decide
  · rfl
  · rfl
  · rw [List.getElem?_replicate]
    rfl

/-- A history of an attach, read by the CPU next. -/
theorem witness_coherent :
    ({ r0Is .A 0x02 with history := [⟨.probe, .wr, .r0, 0x02⟩], prog := [0x4800], turns := [.cpu] }).Coherent ∧
    isNext (step { r0Is .A 0x02 with history := [⟨.probe, .wr, .r0, 0x02⟩], prog := [0x4800], turns := [.cpu] }) = true := by
  refine ⟨⟨?_, ?_⟩, ?_⟩ <;> decide

theorem witness_tx_slot : midway.TxSlot := by
  refine ⟨witness_step_keeps_inv.1, ?_, ?_, ?_, ?_, ?_, ?_⟩ <;> decide

/-- A byte sent and marked, that the probe has latched and not yet taken. -/
def latchedTx : State :=
  { regsAre .C 0x02 .unwritten 0x01 (.byte 0x41) with
    pcur := .busy .taketx .p2 (.byte 0x41), history := [⟨.cpu, .wr, .r3, 0x41⟩], turns := [.probe] }

theorem witness_tx_slot_pending : latchedTx.TxSlot ∧ isNext (step latchedTx) = true := by
  refine ⟨⟨⟨?_, ?_, ?_, ?_⟩, ?_, ?_, ?_, ?_, ?_, ?_⟩, ?_⟩ <;> decide

/-- A byte delivered and marked, that the firmware has latched and not yet returned. -/
def latchedRx : State :=
  { regsAre .B 0x03 (.byte 0x2B) 0x02 .unwritten with
    prog := [0x4C00], cur := .busy .recv .v2 (.byte 0x2B), history := [⟨.probe, .wr, .r1, 0x2B⟩], turns := [.cpu] }

theorem witness_rx_slot : latchedRx.RxSlot ∧ isNext (step latchedRx) = true := by
  refine ⟨⟨⟨?_, ?_, ?_, ?_⟩, ?_, ?_, ?_, ?_, ?_⟩, ?_⟩ <;> decide

/-- A byte delivered and about to be marked. -/
def unmarkedRx : State :=
  { regsAre .A 0x02 (.byte 0x2B) 0x02 .unwritten with
    pcur := .busy (.putrx 0x2B) .p2 .unwritten, history := [⟨.probe, .wr, .r1, 0x2B⟩], turns := [.probe] }

theorem witness_rx_slot_unmarked : unmarkedRx.RxSlot ∧ isNext (step unmarkedRx) = true := by
  refine ⟨⟨⟨?_, ?_, ?_, ?_⟩, ?_, ?_, ?_, ?_, ?_⟩, ?_⟩ <;> decide

theorem witness_attached_block : programWf [0x5041, 0x4C00, 0x7C00] = true ∧ wordsAvoid breaksSlot [0x5041, 0x4C00, 0x7C00] = true ∧
    wordsAvoid breaksSlot [0xB400, 0xB02B] = true ∧ (cfgOf .C true).statusSetOnCpuWrite = true := by decide

theorem witness_rx_full_only_enabled :
    ({ r0Is .A 0x03 with prog := [0x4C00], turns := [.cpu] }).RxFullOnlyEnabled ∧
    ({ r0Is .A 0x03 with prog := [0x4C00], turns := [.cpu] }).avoids rawWrite = true ∧
    isNext (step { r0Is .A 0x03 with prog := [0x4C00], turns := [.cpu] }) = true := by
  refine ⟨?_, ?_, ?_⟩
  · intro _
    decide
  · decide
  · decide

/-- The frames: an operation of each agent that answers a next state, and a register it may not write. -/
theorem witness_frames : isNext (exec (.xmit 0x41) midway) = true ∧ mayWrite midway.cfg (.xmit 0x41) .r1 = false ∧
    isNext (exec .taketx midway) = true ∧ mayWrite midway.cfg .taketx .r3 = false ∧
    isNext (exec (.cwr .r3 0x41) (noSet (r0Is .C 0x00))) = true ∧ mayWrite (cfgOf .C false) (.cwr .r3 0x41) .r2 = false := by decide

/-- Each kind of channel move: detach, delivery, reception, sending in A and in C, attach, and in C an attach over a stale status and a
`PUTRX` that enables TX. -/
theorem witness_channel_moves :
    after (fun t => chanState t.cfg t.regs .rx) (exec .detrx (r0Is .A 0x03)) = some .disabled ∧
    after (fun t => chanState t.cfg t.regs .rx)
      (exec (.putrx 0x2B) { r0Is .A 0x02 with pcur := .busy (.putrx 0x2B) .p2 .unwritten }) = some .enabledFull ∧
    chanState (cfgOf .A true) (r0Is .A 0x02).regs .rx = .enabledEmpty ∧
    after (fun t => chanState t.cfg t.regs .rx) (exec .lclrrx (r0Is .A 0x03)) = some .enabledEmpty ∧
    after (fun t => chanState t.cfg t.regs .tx) (exec .lsettx (r2Is .A 0x02)) = some .enabledFull ∧
    after (fun t => chanState t.cfg t.regs .tx) (exec (.lwrtx 0x41) (r0Is .C 0x02)) = some .enabledFull ∧
    after (fun t => chanState t.cfg t.regs .tx) (exec .atttx (r2Is .A 0x01)) = some .enabledEmpty ∧
    after (fun t => chanState t.cfg t.regs .tx) (exec .atttx (regsAre .C 0x00 .unwritten 0x01 .unwritten)) = some .enabledFull ∧
    after (fun t => chanState t.cfg t.regs .tx)
      (exec (.putrx 0x2B) { r0Is .C 0x00 with pcur := .busy (.putrx 0x2B) .p2 .unwritten }) = some .enabledEmpty ∧
    rawWrite .detrx = false ∧ rawWrite (.lwrtx 0x41) = false := by decide

/-- Schedules of a conforming probe and others: in C `ATTRX` enables TX too and `DETTX` disables RX too (R30, D39). -/
theorem witness_conforming_probe :
    conformingSchedule (cfgOf .A true) [0xA000, 0xB02B, 0xA400, 0xA000] = true ∧
    conformingSchedule (cfgOf .A true) [0xB02B] = false ∧ conformingSchedule (cfgOf .A true) [0xA000, 0xA000] = false ∧
    conformingSchedule (cfgOf .A true) [0xA000, 0xB400] = false ∧ conformingSchedule (cfgOf .C true) [0xA000, 0xB400] = true ∧
    conformingSchedule (cfgOf .A true) [0xA000, 0xAC00, 0xB02B] = true ∧
    conformingSchedule (cfgOf .C true) [0xA000, 0xAC00, 0xB02B] = false := by decide

/-- The ledger agrees with the enables before an action it allows: nothing attached in A, everything attached in C. -/
theorem witness_ledger :
    (∀ d, chanEn (cfgOf .A true) (r0Is .A 0x00).regs d = (⟨false, false⟩ : Ledger).on d) ∧
    (⟨false, false⟩ : Ledger).allows .attrx = true ∧ isNext (exec .attrx (r0Is .A 0x00)) = true ∧
    (∀ d, chanEn (cfgOf .C true) (r0Is .C 0x02).regs d = (⟨true, true⟩ : Ledger).on d) ∧
    (⟨true, true⟩ : Ledger).allows (.putrx 0x2B) = true ∧ isNext (exec (.putrx 0x2B) (r0Is .C 0x02)) = true := by
  refine ⟨fun d => ?_, ?_, ?_, fun d => ?_, ?_, ?_⟩
  · cases d <;> rfl
  · rfl
  · decide
  · cases d <;> rfl
  · rfl
  · decide

/-- Each side's own fields: TX full while the firmware acts, and RX full cleared by an attach and by a detach. -/
theorem witness_own_fields :
    chanFull (cfgOf .A true) (r2Is .A 0x03).regs .tx = true ∧ isNext (exec .lclrrx (r2Is .A 0x03)) = true ∧
    chanFull (cfgOf .B true) (r0Is .B 0x03).regs .rx = true ∧
    after (fun t => chanFull t.cfg t.regs .rx) (exec .attrx (r0Is .B 0x03)) = some false ∧
    after (fun t => chanFull t.cfg t.regs .rx) (exec .detrx (r0Is .B 0x03)) = some false := by decide

/-- `CRD`, `CWR`, `CBS`, `CBC`: a written register, a `⊥` register, and the refused registers of C. -/
theorem witness_cpu_port : (r0Is .A 0x03).regs.get .r0 = .byte 0x03 ∧ (r0Is .A 0x03).regs.get .r3 = .unwritten ∧
    (r0Is .C 0x03).cfg.variant = .C ∧ (r0Is .C 0x03).regs.get .r1 = .unwritten ∧
    ¬ ((r0Is .C 0x03).cfg.variant = .C ∧ (RegIx.r1 = .r2 ∨ RegIx.r1 = .r3)) := by decide

theorem witness_variants : (r0Is .A 0x00).cfg.variant = .A ∧ (r0Is .B 0x00).cfg.variant = .B ∧ (r0Is .C 0x00).cfg.variant = .C ∧
    (noSet (r0Is .C 0x00)).cfg.statusSetOnCpuWrite = false ∧ (r0Is .A 0x00).regs.r1 = .unwritten ∧
    (regsAre .A 0x00 (.byte 0x2B) 0x00 .unwritten).regs.r1 = .byte 0x2B := by decide

theorem witness_poll_false : (r0Is .A 0x00).RxFullOnlyEnabled ∧ chanEn (cfgOf .A true) (r0Is .A 0x00).regs .rx = false ∧
    (r0Is .B 0x01).cfg.variant = .B ∧ chanEn (cfgOf .B true) (r0Is .B 0x01).regs .rx = false := by
  refine ⟨?_, ?_, ?_, ?_⟩
  · intro h
    exact absurd h (by decide)
  · decide
  · decide
  · decide

/-- `RECV` at V0 (idle and spinning), at V1 with `RXD` written and not, and at V2. -/
theorem witness_recv : (regsAre .A 0x03 (.byte 0x2B) 0x00 .unwritten).cur = .idle ∧
    pollTest (cfgOf .A true) 0x03 = true ∧ pollTest (cfgOf .B true) 0x03 = true ∧ pollTest (cfgOf .C true) 0x03 = true ∧
    ({ r0Is .A 0x03 with cur := .busy .recv .v1 .unwritten }).regs.r1 = .unwritten ∧
    ({ r0Is .A 0x03 with cur := .busy .recv .v2 (.byte 0x2B) }).cur = .busy .recv .v2 (.byte 0x2B) ∧
    isNext (exec .poll (r0Is .A 0x03)) = true := by decide

/-- `XMIT` and `XMITR`: a free slot in A and in C with a byte in `res`. -/
theorem witness_transmit :
    (({ r2Is .A 0x02 with res := .byte 0x2B }).cur = .idle ∧ ({ r2Is .A 0x02 with res := .byte 0x2B }).res = .byte 0x2B ∧
      (r2Is .A 0x02).cfg.variant = .A ∧ (r2Is .A 0x02).regs.r2 &&& 0x03 = 0x02) ∧
    ((r0Is .C 0x02).cur = .idle ∧ (r0Is .C 0x02).cfg.variant = .C ∧ (r0Is .C 0x02).cfg.statusSetOnCpuWrite = true ∧
      (r0Is .C 0x02).regs.r0 &&& cEnMask (r0Is .C 0x02).cfg ≠ 0 ∧ (r0Is .C 0x02).regs.r2 = 0x00) := by decide

/-- `XMIT` and `XMITR` at each phase, `XMITR` with `res` unwritten, and a disabled channel. -/
theorem witness_xmit_phases :
    ((r2Is .A 0x01).cur = .idle ∧ (r2Is .A 0x01).res = .unwritten ∧ chanEn (r2Is .A 0x01).cfg (r2Is .A 0x01).regs .tx = false) ∧
    ((r0Is .C 0x01).cur = .idle ∧ chanEn (r0Is .C 0x01).cfg (r0Is .C 0x01).regs .tx = false) ∧
    (({ r2Is .A 0x02 with cur := .busy (.xmit 0x41) .t1 .unwritten }).cur = .busy (.xmit 0x41) .t1 .unwritten) ∧
    (({ r2Is .B 0x02 with cur := .busy .xmitr .t2 (.byte 0x2B) }).cur = .busy .xmitr .t2 (.byte 0x2B)) ∧
    (({ r0Is .C 0x02 with cur := .busy (.xmit 0x41) .ts .unwritten }).cur = .busy (.xmit 0x41) .ts .unwritten) := by decide

/-- A detach while `XMIT` spins, at T0 in A, and at a busy TS in C. -/
theorem witness_detach_cancels :
    detaches (cfgOf .A true) .tx .dettx = true ∧
    isNext (exec .dettx { r2Is .A 0x03 with cur := .busy (.xmit 0x41) .t0 .unwritten }) = true ∧
    detaches (cfgOf .C true) .tx .detrx = true ∧
    isNext (exec .detrx { regsAre .C 0x02 .unwritten 0x01 .unwritten with cur := .busy (.xmit 0x41) .ts .unwritten }) = true ∧
    (regsAre .C 0x02 .unwritten 0x01 .unwritten).regs.r2 ≠ 0 := by decide

theorem witness_jumps : (r0Is .A 0x00).res = .unwritten ∧ ({ r0Is .A 0x00 with res := .byte 0x01 }).res = .byte 0x01 := by decide

/-- A halted CPU agent, and a step of the probe. -/
theorem witness_halt : ({ r0Is .A 0x00 with halted := true, psched := [0xA000], turns := [.probe] }).cpuEnabled = false ∧
    isNext (step { r0Is .A 0x00 with halted := true, psched := [0xA000], turns := [.probe] }) = true := by decide

/-- The probe: a spin, a `⊥` payload, a latched byte, and an attached channel that is empty, or full. -/
theorem witness_probe :
    ({ r2Is .A 0x02 with pcur := .busy .taketx .p1 .unwritten }).regs.r3 = .unwritten ∧
    ({ r2Is .C 0x01 with pcur := .busy .taketx .p2 (.byte 0x41) }).pcur = .busy .taketx .p2 (.byte 0x41) ∧
    chanState (cfgOf .B true) (r0Is .B 0x02).regs .rx = .enabledEmpty ∧
    chanState (cfgOf .A true) (r2Is .A 0x03).regs .tx = .enabledFull ∧
    chanState (cfgOf .C true) (regsAre .C 0x02 .unwritten 0x01 (.byte 0x41)).regs .tx = .enabledFull := by decide

/-- Four distinct addresses; an access of two bytes that reaches the block, and the least and greatest registers' addresses reached by one
byte. -/
theorem witness_bus : Config.build.wf = true ∧ touchesBlock Config.build 3 2 = true ∧ touchesBlock Config.build 0 0 = false ∧
    touchesBlock Config.build 0 1 = true ∧ touchesBlock Config.build 3 1 = true ∧ touchesBlock Config.build 4 1 = false := by decide

/-- A fetch of one byte, and a wider one, from the block; and a wide access where the CPU port's rights would refuse too. -/
theorem witness_fetch_and_order :
    refusalOf (busFetch 0 1 State.reset) = some .fetchFromBlock ∧ refusalOf (busFetch 3 2 State.reset) = some .fetchFromBlock ∧
    refusalOf (busWrite .cpu 2 2 0x41 (State.resetOf (cfgOf .C true))) = some .wideAccess ∧
    refusalOf (busWrite .cpu 2 1 0x41 (State.resetOf (cfgOf .C true))) = some .readOnlyWrite := by decide

/-! ### Infinite runs that spin -/

/-- The run from `s` that is given `f` after every step; a step that stops leaves the state, which does not happen below. -/
def runFed (f : Feed) (s : State) : Nat → State
  | 0 => s
  | n + 1 =>
    match step (runFed f s n) with
    | .next t => t.feed f
    | .fault _ => runFed f s n
    | .refused _ => runFed f s n

/-- What every step and its feed keep holds along the run, which is then one. -/
theorem runFed_keeps {P : State → Prop} {f : Feed} {s : State} (h0 : P s)
    (hk : ∀ u, P u → ∃ t, step u = .next t ∧ P (t.feed f)) : IsRunOf (fun _ => f) (runFed f s) ∧ ∀ n, P (runFed f s n) := by
  have hP : ∀ n, P (runFed f s n) := by
    intro n
    induction n with
    | zero => exact h0
    | succ n ih =>
      obtain ⟨t, ht, h⟩ := hk _ ih
      simpa [runFed, ht] using h
  refine ⟨fun n => ?_, hP⟩
  obtain ⟨t, ht, -⟩ := hk _ (hP n)
  exact ⟨t, ht, by simp [runFed, ht]⟩

/-- The turns of these runs: the CPU agent's, for ever. -/
def cpuTurns : Feed := ⟨[], [.cpu]⟩

/-- `RECV` at V0 with nothing attached and a probe that never takes its one action. -/
def spinning : State :=
  { r0Is .A 0x00 with prog := [0x4C00], psched := [0xA000], cur := .busy .recv .v0 .unwritten, turns := [.cpu] }

/-- What every state of that run has. -/
def Spins (s : State) : Prop :=
  s.halted = false ∧ s.cur = .busy .recv .v0 .unwritten ∧ s.pcur = .idle ∧ s.psched = [0xA000] ∧ s.cfg = cfgOf .A true ∧
    s.regs.r0 = 0x00 ∧ s.turns = [.cpu]

theorem spins_step (s : State) (h : Spins s) : ∃ t, step s = .next t ∧ Spins (t.feed cpuTurns) := by
  obtain ⟨h1, h2, h3, h4, h5, h6, h7⟩ := h
  have hp : pollTest (cfgOf .A true) 0#8 = false := by decide
  refine ⟨(s.takeTurn.record .cpu .rd .r0 0x00).cpuGoto .recv .v0 .unwritten, ?_, ?_⟩
  · simp [step, agentStep, State.turn, State.takeTurn, cpuStep, exec, execRecv, recvV0, portRead, h1, h2, h5, h6, h7, hp]
  · simp [Spins, State.takeTurn, cpuTurns, h1, h3, h4, h5, h6, h7]

/-- `RECV` spins on a run that is fair to the CPU agent, from a state with `Inv`. -/
theorem witness_recv_spins : IsRun (runFed cpuTurns spinning) ∧ CpuFair (runFed cpuTurns spinning) ∧
    (runFed cpuTurns spinning 0).Inv ∧ (runFed cpuTurns spinning 0).turn = .cpu ∧
    (runFed cpuTurns spinning 0).cur = .busy .recv .v0 .unwritten ∧
    ∀ m, 0 ≤ m → pollTest (runFed cpuTurns spinning m).cfg (runFed cpuTurns spinning m).regs.r0 = false := by
  obtain ⟨hr, hs⟩ := runFed_keeps (s := spinning) ⟨rfl, rfl, rfl, rfl, rfl, rfl, rfl⟩ spins_step
  refine ⟨⟨_, hr⟩, fun n => ⟨n, le_rfl, .inr ?_⟩, ⟨?_, ?_, ?_, ?_⟩, rfl, rfl, fun m _ => ?_⟩
  · obtain ⟨-, -, -, -, -, -, h7⟩ := hs n
    simp [State.turn, h7]
  all_goals try decide
  obtain ⟨-, -, -, -, h5, h6, -⟩ := hs m
  rw [h5, h6]
  decide

/-- The same run is one of a conforming probe, whose attach never comes. -/
theorem witness_conforming_run : ConformingRun (fun _ => cpuTurns) (runFed cpuTurns spinning) := by
  obtain ⟨hr, hs⟩ := runFed_keeps (s := spinning) ⟨rfl, rfl, rfl, rfl, rfl, rfl, rfl⟩ spins_step
  have hg : ∀ n, scheduleGiven (fun _ => cpuTurns) (runFed cpuTurns spinning) n = [0xA000] := by
    intro n
    induction n with
    | zero => rfl
    | succ n ih => exact (List.append_nil _).trans ih
  refine ⟨hr, rfl, fun d => by cases d <;> rfl, fun n => ?_, fun n hn => ?_⟩
  · rw [hg]
    decide
  · obtain ⟨-, -, h3, -⟩ := hs n
    exact absurd h3 hn

/-- A program that jumps to its own index (44_harness_control.md R200). -/
def selfJump : State :=
  { r0Is .A 0x00 with prog := [0x6000], turns := [.cpu] }

/-- What every state of its run has. -/
def Jumps (s : State) : Prop :=
  s.halted = false ∧ s.cur = .idle ∧ s.pc = 0 ∧ s.prog = [0x6000] ∧ s.turns = [.cpu]

theorem jumps_step (s : State) (h : Jumps s) : ∃ t, step s = .next t ∧ Jumps (t.feed cpuTurns) := by
  obtain ⟨h1, h2, h3, h4, h5⟩ := h
  refine ⟨s.takeTurn.jumpTo 0, ?_, ?_⟩
  · simp [step, agentStep, State.turn, State.takeTurn, cpuStep, State.fetch, exec, execJmp, h1, h2, h3, h4, h5]
    rfl
  · simp [Jumps, State.takeTurn, cpuTurns, h1, h4, h5]

theorem witness_self_jump : IsRun (runFed cpuTurns selfJump) ∧ CpuFair (runFed cpuTurns selfJump) ∧
    (runFed cpuTurns selfJump 0).Inv ∧ (runFed cpuTurns selfJump 0).atSelfJump = true ∧
    (runFed cpuTurns selfJump 0).turn = .cpu := by
  obtain ⟨hr, hs⟩ := runFed_keeps (s := selfJump) ⟨rfl, rfl, rfl, rfl, rfl⟩ jumps_step
  refine ⟨⟨_, hr⟩, fun n => ⟨n, le_rfl, .inr ?_⟩, ⟨?_, ?_, ?_, ?_⟩, ?_, rfl⟩
  · obtain ⟨-, -, -, -, h5⟩ := hs n
    simp [State.turn, h5]
  all_goals decide

end Sys2Proof.Tests
end

section
/-!
SUPPORT. Proofs for the scope family (00_scope.md). What one phase of any operation can do is said once: at most one register access,
then one ending of the phase. `exec_transition` proves it of every operation, and the obligations follow from the frames of the two.
-/

namespace Sys2Proof.Machine

/-! ### One phase: an access, then an ending -/

/-- The operations that answer a value in `res` and take one phase (R21); `RECV`, which also logs it, is not among them. -/
def returnsValue : Instr → Bool
  | .crd _ | .lenrx | .lentx | .lfulrx | .lbsytx | .lrdrx | .enrx | .entx | .poll => true
  | _ => false

/-- At most one register access by an agent, with what it leaves (R11, R64, R65, R171). -/
inductive Access : Agent → State → State → Prop
  | none {ag : Agent} {s : State} : Access ag s s
  | read {ag : Agent} {s : State} {r : RegIx} {v : Byte} (hr : s.regs.get r = .byte v) : Access ag s (s.record ag .rd r v)
  | cpuWrite {s : State} {r : RegIx} {v : Byte} : Access .cpu s (s.cpuWrite r v)
  | cpuModify {s : State} {r : RegIx} {v w : Byte} (hr : s.regs.get r = .byte v) :
      Access .cpu s ((s.store r w).record .cpu .rmw r w)
  | probeWrite {s : State} {r : RegIx} {v : Byte} : Access .probe s (s.probeWrite r v)

/-- The ways a phase of an operation ends once its access is made: no register and no event is left to change (R10, R24, R200, R203,
R204). -/
inductive Ends : Agent → Instr → State → State → Prop
  | cpuDone {i : Instr} {s : State} : Ends .cpu i s s.cpuDone
  | cpuResult {i : Instr} {s : State} {v : Byte} (hi : returnsValue i = true) : Ends .cpu i s (s.setRes v).cpuDone
  | cpuReceived {s : State} {v : Byte} : Ends .cpu .recv s ((s.setRes v).logCpu v).cpuDone
  | cpuGoto {i : Instr} {s : State} {ph : CpuPhase} {lat : Content} : Ends .cpu i s (s.cpuGoto i ph lat)
  | jump {i : Instr} {s : State} {b : Byte} (hi : i = .jmp b ∨ i = .jz b ∨ i = .jnz b) :
      Ends .cpu i s (s.jumpTo (jumpTarget b))
  | halt {s : State} : Ends .cpu .halt s { s with halted := true, cur := .idle }
  | probeDone {i : Instr} {s : State} : Ends .probe i s s.probeDone
  | probeResult {r : RegIx} {s : State} {v : Byte} : Ends .probe (.prd r) s (s.setPres v).probeDone
  | probeTaken {s : State} {v : Byte} : Ends .probe .taketx s ((s.setPres v).logProbe v).probeDone
  | probeGoto {i : Instr} {s : State} {ph : ProbePhase} {lat : Content} : Ends .probe i s (s.probeGoto i ph lat)

/-- One phase of operation `i` by agent `ag`, from `s` to `t`. -/
def Transition (ag : Agent) (i : Instr) (s t : State) : Prop :=
  ∃ m, Access ag s m ∧ Ends ag i m t

/-- A test of the value read chooses between two endings. -/
theorem Ends.ite {ag : Agent} {i : Instr} {s a b : State} {c : Prop} [Decidable c] (ha : Ends ag i s a) (hb : Ends ag i s b) :
    Ends ag i s (if c then a else b) := by
  split <;> assumption

/-! ### The shared operations are transitions -/

theorem access_transition {ag : Agent} {i : Instr} {s m u t : State} (ha : Access ag s m) (he : Ends ag i m u)
    (h : (.next u : Out) = .next t) : Transition ag i s t :=
  ⟨m, ha, Host.Outcome.next.inj h ▸ he⟩

theorem portRead_transition {ag : Agent} {op i : Instr} {r : RegIx} {s t : State} {f : Byte → State → State}
    (he : ∀ v m, Ends ag i m (f v m)) (h : portRead ag op r s (fun v m => .next (f v m)) = .next t) : Transition ag i s t := by
  obtain ⟨v, hv, h⟩ := portRead_next h
  exact access_transition (.read hv) (he v _) h

theorem cpuModify_transition {op i : Instr} {r : RegIx} {g : Byte → Byte} {s t : State} {f : State → State}
    (he : ∀ m, Ends .cpu i m (f m)) (h : cpuModify op r g s (fun m => .next (f m)) = .next t) : Transition .cpu i s t := by
  obtain ⟨v, hv, h⟩ := cpuModify_next h
  exact access_transition (.cpuModify hv) (he _) h

theorem cpuTest_transition {i : Instr} {r : RegIx} {test : Byte → Bool} {s t : State} (hi : returnsValue i = true)
    (h : cpuTest i r test s = .next t) : Transition .cpu i s t :=
  portRead_transition (fun _ _ => .cpuResult hi) h

theorem cpuLoad_transition {i : Instr} {r : RegIx} {s t : State} (hi : returnsValue i = true) (h : cpuLoad i r s = .next t) :
    Transition .cpu i s t :=
  portRead_transition (fun _ _ => .cpuResult hi) h

theorem cpuWrite_transition {i : Instr} {r : RegIx} {v : Byte} {s t : State}
    (h : (.next (s.cpuWrite r v).cpuDone : Out) = .next t) : Transition .cpu i s t :=
  access_transition .cpuWrite .cpuDone h

theorem cpuModifyDone_transition {op i : Instr} {r : RegIx} {g : Byte → Byte} {s t : State}
    (h : cpuModify op r g s (fun m => .next m.cpuDone) = .next t) : Transition .cpu i s t :=
  cpuModify_transition (fun _ => .cpuDone) h

theorem probeStore_transition {i : Instr} {r : RegIx} {v : Byte} {s t : State} (h : probeStore r v s = .next t) :
    Transition .probe i s t :=
  access_transition .probeWrite .probeDone h

/-! ### The operations of more than one phase -/

theorem execRecv_transition {s t : State} (h : execRecv s = .next t) : Transition .cpu .recv s t := by
  unfold execRecv at h
  split at h
  case h_1 => exact portRead_transition (fun _ _ => .cpuGoto) h
  case h_2 =>
    unfold recvV2 cpuBitClear at h
    exact cpuModify_transition (fun _ => .cpuReceived) h
  case h_3 => exact portRead_transition (fun _ _ => .ite .cpuGoto .cpuGoto) h

theorem xmitAtAB_transition {op : Instr} {lat : Content} {b : Byte} {ph : CpuPhase} {s t : State}
    (h : xmitAtAB op lat b ph s = .next t) : Transition .cpu op s t := by
  unfold xmitAtAB at h
  split at h
  case h_1 => exact access_transition .cpuWrite .cpuGoto h
  case h_2 =>
    unfold xmitT2 cpuBitSet at h
    exact cpuModifyDone_transition h
  case h_3 => exact portRead_transition (fun _ _ => .ite .cpuDone (.ite .cpuGoto .cpuGoto)) h

theorem xmitAtC_transition {op : Instr} {lat : Content} {b : Byte} {ph : CpuPhase} {s t : State}
    (h : xmitAtC op lat b ph s = .next t) : Transition .cpu op s t := by
  unfold xmitAtC at h
  split at h
  case h_1 => exact portRead_transition (fun _ _ => .ite .cpuGoto .cpuGoto) h
  case h_2 => exact cpuWrite_transition h
  case h_3 => exact portRead_transition (fun _ _ => .ite .cpuDone .cpuGoto) h

theorem xmitAt_transition {op : Instr} {lat : Content} {b : Byte} {ph : CpuPhase} {s t : State}
    (h : xmitAt op lat b ph s = .next t) : Transition .cpu op s t := by
  unfold xmitAt at h
  split at h
  case h_1 | h_2 => exact xmitAtAB_transition h
  case h_3 => exact xmitAtC_transition h

theorem execXmitr_transition {s t : State} (h : execXmitr s = .next t) : Transition .cpu .xmitr s t := by
  unfold execXmitr at h
  split at h
  case h_1 => exact xmitAt_transition h
  case h_2 =>
    obtain ⟨_, _, h⟩ := readRes_next h
    exact xmitAt_transition h

theorem execPutrx_transition {b : Byte} {s t : State} (h : execPutrx b s = .next t) : Transition .probe (.putrx b) s t := by
  unfold execPutrx at h
  split at h
  case h_1 => exact access_transition .probeWrite .probeGoto h
  case h_2 => exact probeStore_transition h
  case h_3 => exact portRead_transition (fun _ _ => .ite .probeDone (.ite .probeGoto .probeGoto)) h

/-- `TAKETX` from P1 on, after a first phase `p0` that is a transition. -/
theorem taketxAt_transition {p0 : State → Out} {s t : State} (h0 : p0 s = .next t → Transition .probe .taketx s t)
    (h : taketxAt p0 s = .next t) : Transition .probe .taketx s t := by
  unfold taketxAt at h
  split at h
  case h_1 => exact portRead_transition (fun _ _ => .probeGoto) h
  case h_2 => exact access_transition .probeWrite .probeTaken h
  case h_3 => exact h0 h

theorem execTaketx_transition {s t : State} (h : execTaketx s = .next t) : Transition .probe .taketx s t := by
  have hAB : taketxP0AB s = .next t → Transition .probe .taketx s t :=
    portRead_transition fun _ _ => .ite .probeDone (.ite .probeGoto .probeGoto)
  have hC : taketxP0C s = .next t → Transition .probe .taketx s t :=
    portRead_transition fun _ _ => .ite .probeGoto .probeGoto
  unfold execTaketx at h
  split at h
  case h_1 | h_2 => exact taketxAt_transition hAB h
  case h_3 =>
    split at h
    · exact taketxAt_transition hC h
    · cases h

/-! ### The operations a variant may refuse, and the conditional jumps -/

theorem execLsettx_transition {s t : State} (h : execLsettx s = .next t) : Transition .cpu .lsettx s t := by
  unfold execLsettx at h
  split at h
  case h_1 | h_2 => exact cpuModifyDone_transition h
  case h_3 => cases h

theorem execPclrst_transition {s t : State} (h : execPclrst s = .next t) : Transition .probe .pclrst s t := by
  unfold execPclrst at h
  split at h
  case h_1 | h_2 => cases h
  case h_3 => exact probeStore_transition h

theorem execJz_transition {b : Byte} {s t : State} (h : execJz b s = .next t) : Transition .cpu (.jz b) s t := by
  obtain ⟨_, _, h⟩ := readRes_next h
  exact access_transition .none (.ite (.jump (.inr (.inl rfl))) .cpuDone) h

theorem execJnz_transition {b : Byte} {s t : State} (h : execJnz b s = .next t) : Transition .cpu (.jnz b) s t := by
  obtain ⟨_, _, h⟩ := readRes_next h
  exact access_transition .none (.ite .cpuDone (.jump (.inr (.inr rfl)))) h

/-- Every operation that answers a next state makes one transition of its own agent. -/
theorem exec_transition {i : Instr} {s t : State} (h : exec i s = .next t) : Transition i.agent i s t := by
  cases i with
  | crd r => exact cpuLoad_transition rfl (refuseOr_next h).2
  | cwr r imm => exact cpuWrite_transition (refuseOr_next h).2
  | cbs r m | cbc r m => exact cpuModifyDone_transition (refuseOr_next h).2
  | lenrx | lentx | lfulrx | lbsytx | enrx | entx | poll =>
    simp only [exec, execLenrx, execLentx, execLfulrx, execLbsytx, execEnrx, execEntx, execPoll] at h
    exact cpuTest_transition rfl h
  | lsettx => exact execLsettx_transition h
  | lclrrx =>
    simp only [exec, execLclrrx, cpuBitClear] at h
    exact cpuModifyDone_transition h
  | lrdrx => exact cpuLoad_transition rfl h
  | lwrtx b => exact cpuWrite_transition h
  | recv => exact execRecv_transition h
  | xmit b => exact xmitAt_transition h
  | xmitr => exact execXmitr_transition h
  | jmp b => exact access_transition .none (.jump (.inl rfl)) h
  | jz b => exact execJz_transition h
  | jnz b => exact execJnz_transition h
  | halt => exact access_transition .none .halt h
  | prd r => exact portRead_transition (fun _ _ => .probeResult) h
  | pwr r imm => exact probeStore_transition h
  | attrx | detrx | atttx | dettx => exact probeStore_transition h
  | putrx b => exact execPutrx_transition h
  | taketx => exact execTaketx_transition h
  | pclrst => exact execPclrst_transition h

/-! ### What an access and an ending leave unchanged -/

theorem Access.cfg_eq {ag : Agent} {s m : State} (h : Access ag s m) : m.cfg = s.cfg := by
  cases h <;> simp

theorem Access.prog_eq {ag : Agent} {s m : State} (h : Access ag s m) : m.prog = s.prog := by
  cases h <;> simp

theorem Access.pc_eq {ag : Agent} {s m : State} (h : Access ag s m) : m.pc = s.pc := by
  cases h <;> simp

/-- The history after an access: as it was without one, else one event longer, under the agent's name (R40). -/
theorem Access.history_eq {ag : Agent} {s m : State} (h : Access ag s m) :
    m.history = s.history ∨ ∃ e : Event, e.agent = ag ∧ m.history = s.history ++ [e] := by
  cases h with
  | none => exact .inl rfl
  | read _ | cpuModify _ | probeWrite => exact .inr ⟨_, rfl, rfl⟩
  | cpuWrite => exact .inr ⟨_, rfl, State.cpuWrite_history ..⟩

theorem Ends.cfg_eq {ag : Agent} {i : Instr} {m t : State} (h : Ends ag i m t) : t.cfg = m.cfg := by
  cases h <;> rfl

theorem Ends.prog_eq {ag : Agent} {i : Instr} {m t : State} (h : Ends ag i m t) : t.prog = m.prog := by
  cases h <;> rfl

theorem Ends.history_eq {ag : Agent} {i : Instr} {m t : State} (h : Ends ag i m t) : t.history = m.history := by
  cases h <;> rfl

/-- Where a CPU operation that is no jump and not `HALT` leaves `cur` and `pc` (R10, R204). -/
theorem Ends.pc_of_not_control {i : Instr} {m t : State} (h : Ends .cpu i m t) (hhalt : i ≠ .halt)
    (hjump : ∀ b, i ≠ .jmp b ∧ i ≠ .jz b ∧ i ≠ .jnz b) :
    (t.cur = .idle ∧ t.pc = m.pc + 1) ∨ ∃ ph lat, t.cur = .busy i ph lat ∧ t.pc = m.pc := by
  cases h with
  | cpuDone | cpuResult _ | cpuReceived => exact .inl ⟨rfl, rfl⟩
  | cpuGoto => exact .inr ⟨_, _, rfl, rfl⟩
  | jump hi => simp [hjump] at hi
  | halt => exact absurd rfl hhalt

theorem exec_cfg_eq {i : Instr} {s t : State} (h : exec i s = .next t) : t.cfg = s.cfg :=
  let ⟨_, ha, he⟩ := exec_transition h
  he.cfg_eq.trans ha.cfg_eq

theorem exec_prog_eq {i : Instr} {s t : State} (h : exec i s = .next t) : t.prog = s.prog :=
  let ⟨_, ha, he⟩ := exec_transition h
  he.prog_eq.trans ha.prog_eq

/-! ### The obligations -/

/-- Settles O19: what no operation writes, no step writes. -/
theorem configAndProgramAreFixed : Obligations.ConfigAndProgramAreFixed := by
  unfold Obligations.ConfigAndProgramAreFixed
  intro s t
  refine step_keeps (P := fun u => u.cfg = s.cfg ∧ u.prog = s.prog) ?_ ?_ ?_ s t ⟨rfl, rfl⟩
  · rintro i u v ⟨hcfg, hprog⟩ h
    exact ⟨(exec_cfg_eq h).trans hcfg, (exec_prog_eq h).trans hprog⟩
  · rintro u ⟨hcfg, hprog⟩
    exact ⟨u.takeTurn_cfg.trans hcfg, u.takeTurn_prog.trans hprog⟩
  · exact fun _ _ hu => hu

/-- Settles O23, by the endings of a CPU phase: an access leaves `pc` alone. -/
theorem pcMovesOnlyWhenDone : Obligations.PcMovesOnlyWhenDone := by
  unfold Obligations.PcMovesOnlyWhenDone
  intro i s t hcpu hhalt hjump h
  obtain ⟨m, ha, he⟩ := exec_transition h
  rw [hcpu] at he
  rw [← ha.pc_eq]
  exact he.pc_of_not_control hhalt hjump

/-- Settles O24: the history grows in the access of a phase alone. -/
theorem onePhaseOneAccess : Obligations.OnePhaseOneAccess := by
  unfold Obligations.OnePhaseOneAccess
  intro i s t h
  obtain ⟨m, ha, he⟩ := exec_transition h
  rw [he.history_eq]
  exact ha.history_eq

end Sys2Proof.Machine
end

section
/-!
SUPPORT. A word that decodes to an operation is that operation's encoding: the row that makes an operation gives it the word's own
fields (R81, R83).
-/

namespace Sys2Proof

/-- A row's operation has the code and the fields of the word it was made from (R81, R83). -/
theorem OpRow.make_fields {k : OpRow} (hk : k ∈ opTable) {f : Fields} (hop : k.op = f.op) (hz : k.fmt.unusedZero f = true) :
    (k.make (RegIx.ofBits f.r) f.imm).fields = f := by
  obtain ⟨op, r, imm⟩ := f
  fin_cases hk
  all_goals
    simp only [Format.unusedZero, Bool.and_eq_true, beq_iff_eq] at hz
    simp_all [Instr.fields]

/-- What a word decodes to, the row that makes it (R83). -/
theorem decode_ok {w : CmdWord} {i : Instr} (h : decode w = .ok i) :
    ∃ k ∈ opTable, k.op = (fieldsOf w).op ∧ k.fmt.unusedZero (fieldsOf w) = true ∧
      i = k.make (RegIx.ofBits (fieldsOf w).r) (fieldsOf w).imm := by
  unfold decode at h
  split at h
  · cases h
  · rename_i k hk
    split at h
    · exact ⟨k, List.mem_of_find?_eq_some hk, by simpa using List.find?_some hk, ‹_›, (Except.ok.inj h).symm⟩
    · cases h

theorem encode_of_decode {w : CmdWord} {i : Instr} (h : decode w = .ok i) : encode i = w := by
  obtain ⟨k, hk, hop, hz, rfl⟩ := decode_ok h
  rw [encode, OpRow.make_fields hk hop hz, wordOf_fieldsOf]

end Sys2Proof
end

section
/-!
SUPPORT. What one phase of an operation does to the register file (`Writes`) and what record it leaves its agent with (`Rests`), said
once: `exec_phase` proves both of every operation, beside `exec_transition`, which says the access and the ending.
-/

namespace Sys2Proof.Machine

/-! ### What one phase does to the register file -/

/-- The CPU operations that store a whole byte, and the register they store it in (R101, R127, R146, R147). -/
def storesAt : Instr → Option RegIx
  | .cwr r _ => some r
  | .lwrtx _ | .xmit _ | .xmitr => some .r3
  | _ => none

/-- The raw operations with no side effect, and the register they write (R102, R103, R171). -/
def rawTarget : Instr → Option RegIx
  | .cbs r _ | .cbc r _ | .pwr r _ => some r
  | _ => none

/-- The CPU operations that set `TXF.FULL` (R124, R146). -/
def setsTxFull : Instr → Bool
  | .lsettx | .xmit _ | .xmitr => true
  | _ => false

/-- The attaches and detaches, which write in every phase they have (R172 to R175). -/
def movesEnable : Instr → Bool
  | .attrx | .detrx | .atttx | .dettx => true
  | _ => false

/-- The action named after a direction that attaches it (R172, R174). -/
def attachOf : Dir → Instr
  | .rx => .attrx
  | .tx => .atttx

/-- The action named after a direction that detaches it (R173, R175). -/
def detachOf : Dir → Instr
  | .rx => .detrx
  | .tx => .dettx

/-- The register with a direction's enable bit (R27 to R30). -/
def enReg (c : Config) : Dir → RegIx
  | .rx => .r0
  | .tx => txEnReg c

/-- What `TAKETX` leaves in register 2: `TXF` enabled and empty in A and B, the status clear in C (R177, R178). -/
def takenValue (c : Config) : Byte :=
  match c.variant with
  | .A | .B => enMaskAB
  | .C => 0x00

/-- What one phase of an operation makes of the registers. -/
inductive Writes (c : Config) : Instr → RegFile → RegFile → Prop
  | keep {i : Instr} {g : RegFile} (hi : movesEnable i = false) : Writes c i g g
  | store {i : Instr} {g : RegFile} {r : RegIx} {v : Byte} (hi : storesAt i = some r) : Writes c i g (g.set r v)
  | storeStatus {i : Instr} {g : RegFile} {v : Byte} (hi : storesAt i = some .r3) (hC : c.variant = .C)
      (hs : c.statusSetOnCpuWrite = true) : Writes c i g ((g.set .r3 v).set .r2 statusSetValue)
  | raw {i : Instr} {g : RegFile} {r : RegIx} {v : Byte} (hi : rawTarget i = some r) : Writes c i g (g.set r v)
  | setTxFull {i : Instr} {g : RegFile} (hi : setsTxFull i = true) (hC : c.variant ≠ .C) :
      Writes c i g (g.set .r2 (setBits fullMask g.r2))
  | clearRxFull {i : Instr} {g : RegFile} (hi : i = .recv ∨ i = .lclrrx) : Writes c i g (g.set .r0 (clearBits fullMask g.r0))
  | attach {d : Dir} {g : RegFile} : Writes c (attachOf d) g (g.set (enReg c d) (enMask c))
  | detach {d : Dir} {g : RegFile} : Writes c (detachOf d) g (g.set (enReg c d) 0x00)
  | putPayload {b : Byte} {g : RegFile} : Writes c (.putrx b) g (g.set .r1 b)
  | putFull {b : Byte} {g : RegFile} : Writes c (.putrx b) g (g.set .r0 (enMask c ||| fullMask))
  | take {g : RegFile} : Writes c .taketx g (g.set .r2 (takenValue c))
  | clearStatus {g : RegFile} (hC : c.variant = .C) : Writes c .pclrst g (g.set .r2 0x00)

/-- The record a phase leaves its agent with: none, or one of a run's for the same operation (R24). -/
inductive Rests (c : Config) (i : Instr) (t : State) : Prop
  | cpuIdle (ha : i.agent = .cpu) (h : t.cur = .idle)
  | cpuBusy {ph : CpuPhase} {lat : Content} (ha : i.agent = .cpu) (h : t.cur = .busy i ph lat)
      (hr : cpuRecordOk c.variant i ph lat = true)
  | probeIdle (ha : i.agent = .probe) (h : t.pcur = .idle)
  | probeBusy {ph : ProbePhase} {lat : Content} (ha : i.agent = .probe) (h : t.pcur = .busy i ph lat)
      (hr : probeRecordOk c i ph lat = true)

/-- One phase of an operation: what it writes and the record it leaves. -/
structure Phase (i : Instr) (s t : State) : Prop where
  writes : Writes s.cfg i s.regs t.regs
  rests : Rests s.cfg i t

/-! ### The shared operations -/

theorem cpuWrite_writes {i : Instr} {r : RegIx} {s : State} {v : Byte} (hi : storesAt i = some r) :
    Writes s.cfg i s.regs (s.cpuWrite r v).regs := by
  rw [State.cpuWrite_regs]
  split
  · rename_i h
    obtain ⟨hC, rfl, hs⟩ := h
    exact .storeStatus hi hC hs
  · exact .store hi

/-- An operation of the CPU agent attaches and detaches nothing. -/
theorem movesEnable_of_cpu {i : Instr} (ha : i.agent = .cpu) : movesEnable i = false := by
  cases i with
  | attrx | detrx | atttx | dettx => cases ha
  | _ => rfl

theorem cpuTest_phase {i : Instr} {r : RegIx} {test : Byte → Bool} {s t : State} (ha : i.agent = .cpu)
    (h : cpuTest i r test s = .next t) : Phase i s t := by
  obtain ⟨v, -, rfl⟩ := cpuTest_next h
  exact ⟨.keep (movesEnable_of_cpu ha), .cpuIdle ha rfl⟩

theorem cpuLoad_phase {i : Instr} {r : RegIx} {s t : State} (ha : i.agent = .cpu) (h : cpuLoad i r s = .next t) : Phase i s t := by
  obtain ⟨v, -, rfl⟩ := cpuLoad_next h
  exact ⟨.keep (movesEnable_of_cpu ha), .cpuIdle ha rfl⟩

/-- A byte stored through the CPU port ends the operation. -/
theorem cpuWriteDone_phase {i : Instr} {r : RegIx} {v : Byte} {s t : State} (ha : i.agent = .cpu) (hi : storesAt i = some r)
    (h : (.next (s.cpuWrite r v).cpuDone : Out) = .next t) : Phase i s t := by
  cases h
  exact ⟨cpuWrite_writes hi, .cpuIdle ha rfl⟩

/-- A read-modify-write ends the operation. -/
theorem cpuModifyDone_phase {i op : Instr} {r : RegIx} {f : Byte → Byte} {s t : State} (ha : i.agent = .cpu)
    (hw : ∀ v, s.regs.get r = .byte v → Writes s.cfg i s.regs (s.regs.set r (f v)))
    (h : cpuModify op r f s (fun m => .next m.cpuDone) = .next t) : Phase i s t := by
  obtain ⟨v, hv, h⟩ := cpuModify_next h
  cases h
  exact ⟨hw v hv, .cpuIdle ha rfl⟩

theorem probeStore_phase {i : Instr} {r : RegIx} {v : Byte} {s t : State} (ha : i.agent = .probe)
    (hw : Writes s.cfg i s.regs (s.regs.set r v)) (h : probeStore r v s = .next t) : Phase i s t := by
  cases h
  exact ⟨hw, .probeIdle ha rfl⟩

/-- The atomic set of `TXF.FULL` (R124, R146). -/
theorem setTxFull_writes {c : Config} {i : Instr} {g : RegFile} (hi : setsTxFull i = true) (hC : c.variant ≠ .C) (v : Byte)
    (hv : g.get .r2 = .byte v) : Writes c i g (g.set .r2 (setBits fullMask v)) := by
  cases hv
  exact .setTxFull hi hC

/-- The atomic clear of RX full (R125, R144). -/
theorem clearRxFull_writes {c : Config} {i : Instr} {g : RegFile} (hi : i = .recv ∨ i = .lclrrx) (v : Byte)
    (hv : g.get .r0 = .byte v) : Writes c i g (g.set .r0 (clearBits fullMask v)) := by
  cases hv
  exact .clearRxFull hi

/-! ### The operations of more than one phase -/

theorem execRecv_phase {s t : State} (h : execRecv s = .next t) : Phase .recv s t := by
  unfold execRecv at h
  split at h
  case h_1 =>
    obtain ⟨v, -, h⟩ := portRead_next h
    cases h
    exact ⟨.keep rfl, .cpuBusy rfl rfl rfl⟩
  case h_2 =>
    unfold recvV2 cpuBitClear at h
    obtain ⟨v, hv, h⟩ := cpuModify_next h
    cases h
    exact ⟨clearRxFull_writes (.inl rfl) v hv, .cpuIdle rfl rfl⟩
  case h_3 =>
    obtain ⟨v, -, h⟩ := portRead_next h
    split at h <;> cases h <;> exact ⟨.keep rfl, .cpuBusy rfl rfl rfl⟩

section Xmit

/-! The operation is `XMIT` or `XMITR`; `hrec` says that what it latches is what its records hold. -/

variable {op : Instr} {lat : Content} (ha : op.agent = .cpu) (hst : storesAt op = some .r3) (hfull : setsTxFull op = true)
  (hrec : ∀ v ph, cpuRecordOk v op ph lat = xmitPhaseOk v ph)

include ha hst hfull hrec

theorem xmitAtAB_phase {b : Byte} {ph : CpuPhase} {s t : State} (hC : s.cfg.variant ≠ .C)
    (h : xmitAtAB op lat b ph s = .next t) : Phase op s t := by
  have hbusy : ∀ ph', ph' = .t0 ∨ ph' = .t1 ∨ ph' = .t2 → cpuRecordOk s.cfg.variant op ph' lat = true := by
    intro ph' hph
    rw [hrec]
    cases hv : s.cfg.variant
    · rcases hph with rfl | rfl | rfl <;> rfl
    · rcases hph with rfl | rfl | rfl <;> rfl
    · exact absurd hv hC
  unfold xmitAtAB at h
  split at h
  case h_1 =>
    cases h
    exact ⟨cpuWrite_writes hst, .cpuBusy ha rfl (hbusy _ (by simp))⟩
  case h_2 =>
    unfold xmitT2 cpuBitSet at h
    exact cpuModifyDone_phase ha (setTxFull_writes hfull hC) h
  case h_3 =>
    obtain ⟨v, -, h⟩ := portRead_next h
    split at h
    · cases h
      exact ⟨.keep (movesEnable_of_cpu ha), .cpuIdle ha rfl⟩
    · split at h <;> cases h <;> exact ⟨.keep (movesEnable_of_cpu ha), .cpuBusy ha rfl (hbusy _ (by simp))⟩

omit hfull in
theorem xmitAtC_phase {b : Byte} {ph : CpuPhase} {s t : State} (hC : s.cfg.variant = .C)
    (h : xmitAtC op lat b ph s = .next t) : Phase op s t := by
  have hbusy : ∀ ph', ph' = .t0 ∨ ph' = .ts ∨ ph' = .t1 → cpuRecordOk s.cfg.variant op ph' lat = true := by
    intro ph' hph
    rw [hrec, hC]
    rcases hph with rfl | rfl | rfl <;> rfl
  unfold xmitAtC at h
  split at h
  case h_1 =>
    obtain ⟨v, -, h⟩ := portRead_next h
    split at h <;> cases h <;> exact ⟨.keep (movesEnable_of_cpu ha), .cpuBusy ha rfl (hbusy _ (by simp))⟩
  case h_2 => exact cpuWriteDone_phase ha hst h
  case h_3 =>
    obtain ⟨v, -, h⟩ := portRead_next h
    split at h <;> cases h
    · exact ⟨.keep (movesEnable_of_cpu ha), .cpuIdle ha rfl⟩
    · exact ⟨.keep (movesEnable_of_cpu ha), .cpuBusy ha rfl (hbusy _ (by simp))⟩

theorem xmitAt_phase {b : Byte} {ph : CpuPhase} {s t : State} (h : xmitAt op lat b ph s = .next t) : Phase op s t := by
  unfold xmitAt at h
  split at h
  case h_1 hv | h_2 hv => exact xmitAtAB_phase ha hst hfull hrec (by simp [hv]) h
  case h_3 hv => exact xmitAtC_phase ha hst hrec hv h

end Xmit

theorem execXmit_phase {b : Byte} {s t : State} (h : execXmit b s = .next t) : Phase (.xmit b) s t :=
  xmitAt_phase rfl rfl rfl (fun _ _ => rfl) h

theorem execXmitr_phase {s t : State} (h : execXmitr s = .next t) : Phase .xmitr s t := by
  unfold execXmitr at h
  split at h
  case h_1 => exact xmitAt_phase rfl rfl rfl (fun _ _ => rfl) h
  case h_2 =>
    obtain ⟨_, _, h⟩ := readRes_next h
    exact xmitAt_phase rfl rfl rfl (fun _ _ => rfl) h

theorem execPutrx_phase {b : Byte} {s t : State} (h : execPutrx b s = .next t) : Phase (.putrx b) s t := by
  unfold execPutrx at h
  split at h
  case h_1 =>
    cases h
    exact ⟨.putPayload, .probeBusy rfl rfl rfl⟩
  case h_2 => exact probeStore_phase rfl .putFull h
  case h_3 =>
    obtain ⟨v, -, h⟩ := portRead_next h
    split at h
    · cases h
      exact ⟨.keep rfl, .probeIdle rfl rfl⟩
    · split at h <;> cases h <;> exact ⟨.keep rfl, .probeBusy rfl rfl rfl⟩

/-- The records of `TAKETX` where a variant and its parameter have the action (R177, R178). -/
theorem taketx_record {c : Config} (hc : c.variant ≠ .C ∨ c.statusSetOnCpuWrite = true) :
    probeRecordOk c .taketx .p0 .unwritten = true ∧ probeRecordOk c .taketx .p1 .unwritten = true ∧
      ∀ v, probeRecordOk c .taketx .p2 (.byte v) = true := by
  simp [probeRecordOk, hc]

/-- `TAKETX` from P1 on, after a first phase `p0`. -/
theorem taketxAt_phase {p0 : State → Out} {s t : State} (hc : s.cfg.variant ≠ .C ∨ s.cfg.statusSetOnCpuWrite = true)
    (h0 : p0 s = .next t → Phase .taketx s t) (h : taketxAt p0 s = .next t) : Phase .taketx s t := by
  unfold taketxAt at h
  split at h
  case h_1 =>
    obtain ⟨v, -, h⟩ := portRead_next h
    cases h
    exact ⟨.keep rfl, .probeBusy rfl rfl ((taketx_record hc).2.2 v)⟩
  case h_2 =>
    cases h
    exact ⟨.take, .probeIdle rfl rfl⟩
  case h_3 => exact h0 h

theorem taketxP0AB_phase {s t : State} (hC : s.cfg.variant ≠ .C) (h : taketxP0AB s = .next t) : Phase .taketx s t := by
  obtain ⟨hp0, hp1, -⟩ := taketx_record (.inl hC)
  obtain ⟨v, -, h⟩ := portRead_next h
  split at h
  · cases h
    exact ⟨.keep rfl, .probeIdle rfl rfl⟩
  · split at h <;> cases h
    · exact ⟨.keep rfl, .probeBusy rfl rfl hp0⟩
    · exact ⟨.keep rfl, .probeBusy rfl rfl hp1⟩

theorem taketxP0C_phase {s t : State} (hs : s.cfg.statusSetOnCpuWrite = true) (h : taketxP0C s = .next t) :
    Phase .taketx s t := by
  obtain ⟨hp0, hp1, -⟩ := taketx_record (.inr hs)
  obtain ⟨v, -, h⟩ := portRead_next h
  split at h <;> cases h
  · exact ⟨.keep rfl, .probeBusy rfl rfl hp0⟩
  · exact ⟨.keep rfl, .probeBusy rfl rfl hp1⟩

theorem execTaketx_phase {s t : State} (h : execTaketx s = .next t) : Phase .taketx s t := by
  unfold execTaketx at h
  split at h
  case h_1 hv | h_2 hv =>
    have hC : s.cfg.variant ≠ .C := by simp [hv]
    exact taketxAt_phase (.inl hC) (taketxP0AB_phase hC) h
  case h_3 =>
    split at h
    · exact taketxAt_phase (.inr ‹_›) (taketxP0C_phase ‹_›) h
    · cases h

/-! ### Every operation -/

theorem execLsettx_phase {s t : State} (h : execLsettx s = .next t) : Phase .lsettx s t := by
  unfold execLsettx at h
  split at h
  case h_1 hv | h_2 hv =>
    unfold cpuBitSet at h
    exact cpuModifyDone_phase rfl (setTxFull_writes rfl (by simp [hv])) h
  case h_3 => cases h

theorem execPclrst_phase {s t : State} (h : execPclrst s = .next t) : Phase .pclrst s t := by
  unfold execPclrst at h
  split at h
  case h_1 | h_2 => cases h
  case h_3 hC => exact probeStore_phase rfl (.clearStatus hC) h

/-- A conditional jump writes nothing and leaves no record. -/
theorem control_phase {i : Instr} {s t : State} (ha : i.agent = .cpu) (hr : t.regs = s.regs) (hc : t.cur = .idle) :
    Phase i s t :=
  ⟨hr ▸ .keep (movesEnable_of_cpu ha), .cpuIdle ha hc⟩

theorem execJz_phase {b : Byte} {s t : State} (h : execJz b s = .next t) : Phase (.jz b) s t := by
  obtain ⟨_, _, h⟩ := readRes_next h
  split at h <;> cases h <;> exact control_phase rfl rfl rfl

theorem execJnz_phase {b : Byte} {s t : State} (h : execJnz b s = .next t) : Phase (.jnz b) s t := by
  obtain ⟨_, _, h⟩ := readRes_next h
  split at h <;> cases h <;> exact control_phase rfl rfl rfl

theorem execPrd_phase {r : RegIx} {s t : State} (h : execPrd r s = .next t) : Phase (.prd r) s t := by
  obtain ⟨v, -, h⟩ := portRead_next h
  cases h
  exact ⟨.keep rfl, .probeIdle rfl rfl⟩

/-- Every operation that answers a next state makes one phase. -/
theorem exec_phase {i : Instr} {s t : State} (h : exec i s = .next t) : Phase i s t := by
  cases i with
  | crd r => exact cpuLoad_phase rfl (refuseOr_next h).2
  | cwr r imm => exact cpuWriteDone_phase rfl rfl (refuseOr_next h).2
  | cbs r m | cbc r m => exact cpuModifyDone_phase rfl (fun _ _ => .raw rfl) (refuseOr_next h).2
  | lenrx | lentx | lfulrx | lbsytx | enrx | entx | poll =>
    simp only [exec, execLenrx, execLentx, execLfulrx, execLbsytx, execEnrx, execEntx, execPoll] at h
    exact cpuTest_phase rfl h
  | lsettx => exact execLsettx_phase h
  | lclrrx =>
    simp only [exec, execLclrrx, cpuBitClear] at h
    exact cpuModifyDone_phase rfl (clearRxFull_writes (.inr rfl)) h
  | lrdrx => exact cpuLoad_phase rfl h
  | lwrtx b => exact cpuWriteDone_phase rfl rfl h
  | recv => exact execRecv_phase h
  | xmit b => exact execXmit_phase h
  | xmitr => exact execXmitr_phase h
  | jmp b | halt =>
    cases h
    exact control_phase rfl rfl rfl
  | jz b => exact execJz_phase h
  | jnz b => exact execJnz_phase h
  | prd r => exact execPrd_phase h
  | pwr r imm => exact probeStore_phase rfl (.raw rfl) h
  | attrx => exact probeStore_phase rfl (.attach (d := .rx)) h
  | atttx => exact probeStore_phase rfl (.attach (d := .tx)) h
  | detrx => exact probeStore_phase rfl (.detach (d := .rx)) h
  | dettx => exact probeStore_phase rfl (.detach (d := .tx)) h
  | putrx b => exact execPutrx_phase h
  | taketx => exact execTaketx_phase h
  | pclrst => exact execPclrst_phase h

end Sys2Proof.Machine
end

section
/-!
SUPPORT. Proofs for the state family (10_state.md): the frames of the operations and the two invariants of every step, from what an
access and an ending leave unchanged.
-/

namespace Sys2Proof.Machine

/-! ### What an access and an ending leave unchanged -/

/-- An access changes the registers and the history alone (R64). -/
theorem Access.frame {ag : Agent} {s m : State} (h : Access ag s m) : ∃ g es, m = { s with regs := g, history := es } := by
  cases h with
  | none | read _ | cpuModify _ | probeWrite => exact ⟨_, _, rfl⟩
  | cpuWrite =>
    unfold State.cpuWrite State.statusEffect
    split <;> exact ⟨_, _, rfl⟩

theorem Ends.regs_eq {ag : Agent} {i : Instr} {m t : State} (h : Ends ag i m t) : t.regs = m.regs := by
  cases h <;> rfl

/-- A CPU phase ends with everything but the CPU agent's own state as it was (R22). -/
theorem Ends.cpu_frame {i : Instr} {m t : State} (h : Ends .cpu i m t) :
    ∃ v l p hl c, t = { m with res := v, clog := l, pc := p, halted := hl, cur := c } := by
  cases h <;> exact ⟨_, _, _, _, _, rfl⟩

/-- A probe phase ends with everything but the probe agent's own state as it was (R22, R66). -/
theorem Ends.probe_frame {i : Instr} {m t : State} (h : Ends .probe i m t) :
    ∃ v l c, t = { m with pres := v, plog := l, pcur := c } := by
  cases h <;> exact ⟨_, _, _, rfl⟩

theorem Ends.halted_eq {ag : Agent} {i : Instr} {m t : State} (h : Ends ag i m t) (hi : i ≠ .halt) : t.halted = m.halted := by
  cases h with
  | halt => exact absurd rfl hi
  | _ => rfl

theorem Ends.clog_eq {ag : Agent} {i : Instr} {m t : State} (h : Ends ag i m t) (hi : i ≠ .recv) : t.clog = m.clog := by
  cases h with
  | cpuReceived => exact absurd rfl hi
  | _ => rfl

theorem Ends.res_eq {ag : Agent} {i : Instr} {m t : State} (h : Ends ag i m t) (hv : returnsValue i = false) (hi : i ≠ .recv) :
    t.res = m.res := by
  cases h with
  | cpuResult hr => simp [hv] at hr
  | cpuReceived => exact absurd rfl hi
  | _ => rfl

theorem Ends.plog_eq {ag : Agent} {i : Instr} {m t : State} (h : Ends ag i m t) (hi : i ≠ .taketx) : t.plog = m.plog := by
  cases h with
  | probeTaken => exact absurd rfl hi
  | _ => rfl

theorem Ends.pres_eq {ag : Agent} {i : Instr} {m t : State} (h : Ends ag i m t) (hi : i ≠ .taketx) (hr : ∀ r, i ≠ .prd r) :
    t.pres = m.pres := by
  cases h with
  | probeTaken => exact absurd rfl hi
  | probeResult => exact absurd rfl (hr _)
  | _ => rfl

/-- Where a CPU phase leaves `pc`: at the next index at most, or at a jump target, which is a byte (R200, R204). -/
theorem Ends.pc_le {i : Instr} {m t : State} (h : Ends .cpu i m t) : t.pc ≤ m.pc + 1 ∨ t.pc < 256 := by
  cases h with
  | cpuDone | cpuResult _ | cpuReceived => exact .inl le_rfl
  | cpuGoto | halt => exact .inl (Nat.le_succ _)
  | @jump _ _ b _ => exact .inr b.isLt

/-- A CPU phase that leaves a record leaves `pc` and `halted` as they were (R204). -/
theorem Ends.pc_of_busy {i op : Instr} {ph : CpuPhase} {lat : Content} {m t : State} (h : Ends .cpu i m t)
    (hb : t.cur = .busy op ph lat) : t.pc = m.pc ∧ t.halted = m.halted := by
  cases h with
  | cpuGoto => exact ⟨rfl, rfl⟩
  | cpuDone | cpuResult _ | cpuReceived | jump _ | halt => cases hb

/-- Settles O21: the frame of the access, then that of the ending. -/
theorem cpuOperationFrame : Obligations.CpuOperationFrame := by
  unfold Obligations.CpuOperationFrame
  intro i s t hcpu h
  obtain ⟨m, ha, he⟩ := exec_transition h
  rw [hcpu] at he
  obtain ⟨g, es, rfl⟩ := ha.frame
  have hhalted := he.halted_eq
  have hclog := he.clog_eq
  have hres := he.res_eq
  obtain ⟨_, _, _, _, _, rfl⟩ := he.cpu_frame
  refine ⟨rfl, rfl, rfl, rfl, rfl, rfl, rfl, rfl, hhalted, hclog, ?_⟩
  rintro (⟨_, _, rfl | rfl | rfl⟩ | rfl | rfl | rfl | rfl | ⟨_, rfl | rfl | rfl | rfl | rfl⟩) <;> exact hres rfl nofun

/-- Settles O22, in the same way. -/
theorem probeActionFrame : Obligations.ProbeActionFrame := by
  unfold Obligations.ProbeActionFrame
  intro i s t hprobe h
  obtain ⟨m, ha, he⟩ := exec_transition h
  rw [hprobe] at he
  obtain ⟨g, es, rfl⟩ := ha.frame
  have hplog := he.plog_eq
  have hpres := he.pres_eq
  obtain ⟨_, _, _, rfl⟩ := he.probe_frame
  exact ⟨rfl, rfl, rfl, rfl, rfl, rfl, rfl, rfl, rfl, rfl, hplog, hpres⟩

/-! ### The invariant -/

theorem inv_takeTurn {s : State} (h : s.Inv) : s.takeTurn.Inv := by
  unfold State.takeTurn
  split <;> exact h

/-- The records a run has are of operations of the record's agent. -/
theorem agent_of_cpuRecordOk {v : Variant} {op : Instr} {ph : CpuPhase} {lat : Content} (h : cpuRecordOk v op ph lat = true) :
    op.agent = .cpu := by
  cases op with
  | recv | xmit _ | xmitr => rfl
  | _ => cases lat <;> cases h

theorem agent_of_probeRecordOk {c : Config} {op : Instr} {ph : ProbePhase} {lat : Content}
    (h : probeRecordOk c op ph lat = true) : op.agent = .probe := by
  cases op with
  | putrx _ | taketx => rfl
  | _ => cases lat <;> cases h

/-- A program that can be fetched from has an index left after `pc` (R23). -/
theorem pc_lt_of_fetch {s : State} {w : CmdWord} (hp : programWf s.prog = true) (h : s.fetch = some w) : s.pc < 256 := by
  obtain ⟨hlt, -⟩ := List.getElem?_eq_some_iff.mp h
  have : s.prog.length ≤ 256 := of_decide_eq_true hp
  omega

/-- A phase of the CPU operation whose word stands at `pc` keeps the invariant. -/
theorem exec_inv_cpu {i : Instr} {s t : State} (hs : s.Inv) (hh : s.halted = false) (hf : s.fetch = some (encode i))
    (hcpu : i.agent = .cpu) (h : exec i s = .next t) : t.Inv := by
  obtain ⟨hprog, -, -, hpcur⟩ := hs
  have hlt := pc_lt_of_fetch hprog hf
  obtain ⟨m, ha, he⟩ := exec_transition h
  rw [hcpu] at he
  obtain ⟨-, -, hpcur', -, hcfg', hprog', -⟩ := cpuOperationFrame i s t hcpu h
  refine ⟨hprog' ▸ hprog, ?_, ?_, ?_⟩
  · have := he.pc_le
    rw [ha.pc_eq] at this
    omega
  · cases (exec_phase h).rests with
    | cpuIdle _ hc => simp [State.curOk, hc]
    | cpuBusy _ hc hr =>
      obtain ⟨hpc, hhalted⟩ := he.pc_of_busy hc
      obtain ⟨_, _, rfl⟩ := ha.frame
      have hf' : t.fetch = some (encode i) := by rw [State.fetch, hprog', hpc]; exact hf
      simp [State.curOk, hc, hr, hf', hhalted, hh, hcfg']
    | probeIdle hp _ | probeBusy hp _ _ => simp [hcpu] at hp
  · rw [State.pcurOk, hpcur', hcfg']
    exact hpcur

/-- A phase of a probe action keeps the invariant. -/
theorem exec_inv_probe {i : Instr} {s t : State} (hs : s.Inv) (hprobe : i.agent = .probe) (h : exec i s = .next t) : t.Inv := by
  obtain ⟨hprog, hpc, hcur, -⟩ := hs
  obtain ⟨-, -, hpc', hhalted', hcur', -, hcfg', hprog', -⟩ := probeActionFrame i s t hprobe h
  refine ⟨hprog' ▸ hprog, hpc' ▸ hpc, ?_, ?_⟩
  · rw [State.curOk, State.fetch, hcur', hhalted', hprog', hpc', hcfg']
    exact hcur
  · cases (exec_phase h).rests with
    | probeIdle _ hc => simp [State.pcurOk, hc]
    | probeBusy _ hc hr => simp [State.pcurOk, hc, hr, hcfg']
    | cpuIdle hp _ | cpuBusy hp _ _ => simp [hprobe] at hp

theorem cpuStep_inv {s t : State} (hs : s.Inv) (h : cpuStep s = .next t) : t.Inv := by
  rcases cpuStep_next h with ⟨_, rfl⟩ | ⟨op, ph, lat, hh, hc, h⟩ | ⟨w, i, hh, _, hf, hd, h⟩
  · exact hs
  · obtain ⟨-, -, hcur, -⟩ := id hs
    simp only [State.curOk, hc, Bool.and_eq_true, beq_iff_eq] at hcur
    obtain ⟨⟨-, hf⟩, hr⟩ := hcur
    exact exec_inv_cpu hs hh hf (agent_of_cpuRecordOk hr) h
  · obtain ⟨hw, hcpu⟩ := decodeFor_ok hd
    exact exec_inv_cpu hs hh (encode_of_decode hw ▸ hf) hcpu h

theorem probeStep_inv {s t : State} (hs : s.Inv) (h : probeStep s = .next t) : t.Inv := by
  rcases probeStep_next h with ⟨_, _, rfl⟩ | ⟨op, ph, lat, hc, h⟩ | ⟨w, ws, i, _, _, hd, h⟩
  · exact hs
  · obtain ⟨-, -, -, hpcur⟩ := id hs
    rw [State.pcurOk, hc] at hpcur
    exact exec_inv_probe hs (agent_of_probeRecordOk hpcur) h
  · exact exec_inv_probe (s := { s with psched := ws }) hs (decodeFor_ok hd).2 h

/-- Settles O13, by the agent of the step. -/
theorem stepKeepsInv : Obligations.StepKeepsInv := by
  unfold Obligations.StepKeepsInv
  intro s t hs h
  rcases step_next h with ⟨_, h⟩ | ⟨_, h⟩
  · exact cpuStep_inv (inv_takeTurn hs) h
  · exact probeStep_inv (inv_takeTurn hs) h

/-! ### The history -/

theorem replay_append (c : Config) (g : RegFile) (es : List Event) (e : Event) :
    replay c g (es ++ [e]) = applyEvent c (replay c g es) e := by
  induction es generalizing g with
  | nil => rfl
  | cons e' es ih => exact ih _

theorem readsCoherent_append (c : Config) (g : RegFile) (es : List Event) (e : Event) :
    readsCoherent c g (es ++ [e]) =
      (readsCoherent c g es && (e.kind != .rd || (replay c g es).get e.reg == .byte e.value)) := by
  induction es generalizing g with
  | nil => simp [readsCoherent, replay]
  | cons e' es ih => simp [readsCoherent, replay, ih, Bool.and_assoc]

/-- A state stays coherent when its history grows by an event that leaves the registers as it says and, as a read, returns what the
register held (R71). -/
theorem coherent_append {s m : State} {e : Event} (hs : s.Coherent) (hcfg : m.cfg = s.cfg) (hh : m.history = s.history ++ [e])
    (hr : m.regs = applyEvent s.cfg s.regs e) (hrd : e.kind = .rd → s.regs.get e.reg = .byte e.value) : m.Coherent := by
  obtain ⟨hregs, hreads⟩ := hs
  refine ⟨?_, ?_⟩
  · rw [hh, hcfg, replay_append, ← hregs, hr]
  · rw [hh, hcfg, readsCoherent_append, hreads, ← hregs]
    by_cases hk : e.kind = .rd
    · simp [hrd hk]
    · simp [hk]

theorem Access.coherent {ag : Agent} {s m : State} (ha : Access ag s m) (hs : s.Coherent) : m.Coherent := by
  cases ha with
  | none => exact hs
  | read hr => exact coherent_append hs rfl rfl rfl fun _ => hr
  | cpuModify _ => exact coherent_append hs rfl rfl rfl nofun
  | cpuWrite =>
    refine coherent_append hs (State.cpuWrite_cfg ..) (State.cpuWrite_history ..) ?_ nofun
    simp [State.cpuWrite_regs, applyEvent]
  | probeWrite => exact coherent_append hs rfl rfl (by simp [applyEvent]) nofun

theorem exec_coherent {i : Instr} {s t : State} (hs : s.Coherent) (h : exec i s = .next t) : t.Coherent := by
  obtain ⟨m, ha, he⟩ := exec_transition h
  have hm := ha.coherent hs
  rw [State.Coherent, he.regs_eq, he.cfg_eq, he.history_eq]
  exact hm

theorem coherent_takeTurn {s : State} (h : s.Coherent) : s.takeTurn.Coherent := by
  unfold State.takeTurn
  split <;> exact h

/-- Settles O14: an access appends the event that says what it left, and an ending changes neither side. -/
theorem stepKeepsHistoryCoherent : Obligations.StepKeepsHistoryCoherent := by
  unfold Obligations.StepKeepsHistoryCoherent
  exact step_keeps (fun _ _ _ => exec_coherent) (fun _ => coherent_takeTurn) (fun _ _ h => h)

end Sys2Proof.Machine
end

section
/-!
SUPPORT. Proofs for the state family: the registers an operation may write, and the enables, full conditions and abstract states of the
channels, from what a phase writes.
-/

namespace Sys2Proof.Machine

/-! ### The registers an operation writes -/

theorem mayWrite_of_storesAt {c : Config} {i : Instr} {r : RegIx} (hi : storesAt i = some r) : mayWrite c i r = true := by
  cases i with
  | cwr _ _ | lwrtx _ | xmit _ | xmitr =>
    cases hi
    simp [mayWrite]
  | _ => cases hi

/-- The side effect of R34 is among what an operation that stores in register 3 may write. -/
theorem mayWrite_status {c : Config} {i : Instr} (hi : storesAt i = some .r3) (hC : c.variant = .C)
    (hs : c.statusSetOnCpuWrite = true) : mayWrite c i .r2 = true := by
  cases i with
  | cwr _ _ | lwrtx _ | xmit _ | xmitr =>
    cases hi
    simp [mayWrite, hC, hs]
  | _ => cases hi

theorem mayWrite_of_rawTarget {c : Config} {i : Instr} {r : RegIx} (hi : rawTarget i = some r) : mayWrite c i r = true := by
  cases i with
  | cbs _ _ | cbc _ _ | pwr _ _ =>
    cases hi
    simp [mayWrite]
  | _ => cases hi

theorem mayWrite_of_setsTxFull {c : Config} {i : Instr} (hi : setsTxFull i = true) (hC : c.variant ≠ .C) :
    mayWrite c i .r2 = true := by
  cases i with
  | lsettx | xmit _ | xmitr => simp [mayWrite, hC]
  | _ => cases hi

theorem get_set_of_mayWrite {c : Config} {i : Instr} {g : RegFile} {r j : RegIx} {v : Byte} (hr : mayWrite c i r = true)
    (hj : mayWrite c i j = false) : (g.set r v).get j = g.get j :=
  g.get_set_ne v (by rintro rfl; simp [hr] at hj)

theorem Writes.get_eq {c : Config} {i : Instr} {g g' : RegFile} {j : RegIx} (h : Writes c i g g')
    (hj : mayWrite c i j = false) : g'.get j = g.get j := by
  cases h with
  | keep _ => rfl
  | store hi => exact get_set_of_mayWrite (mayWrite_of_storesAt hi) hj
  | storeStatus hi hC hs =>
    exact (get_set_of_mayWrite (mayWrite_status hi hC hs) hj).trans (get_set_of_mayWrite (mayWrite_of_storesAt hi) hj)
  | raw hi => exact get_set_of_mayWrite (mayWrite_of_rawTarget hi) hj
  | setTxFull hi hC => exact get_set_of_mayWrite (mayWrite_of_setsTxFull hi hC) hj
  | clearRxFull hi => exact get_set_of_mayWrite (by rcases hi with rfl | rfl <;> rfl) hj
  | @attach d _ => exact get_set_of_mayWrite (by cases d <;> simp [mayWrite, attachOf, enReg]) hj
  | @detach d _ => exact get_set_of_mayWrite (by cases d <;> simp [mayWrite, detachOf, enReg]) hj
  | putPayload | putFull | take | clearStatus _ => exact get_set_of_mayWrite rfl hj

/-- Settles O20: a phase writes registers that `mayWrite` names. -/
theorem onlyNamedRegistersChange : Obligations.OnlyNamedRegistersChange := by
  unfold Obligations.OnlyNamedRegistersChange
  intro i s t j h hj
  exact (exec_phase h).writes.get_eq hj

/-! ### Enables and full conditions -/

@[simp] theorem chanEn_rx (c : Config) (g : RegFile) : chanEn c g .rx = enTest c g.r0 := rfl
@[simp] theorem chanFull_rx (c : Config) (g : RegFile) : chanFull c g .rx = fullTest g.r0 := rfl
@[simp] theorem chanFull_tx (c : Config) (g : RegFile) : chanFull c g .tx = busyTest c g.r2 := rfl

/-- In A and B TX has an enable of its own (R28). -/
theorem chanEn_tx_not_C {c : Config} (hC : c.variant ≠ .C) (g : RegFile) : chanEn c g .tx = enTest c g.r2 := by
  cases hv : c.variant <;> simp_all [chanEn]

/-- In C one enable serves both directions (R30). -/
theorem chanEn_C {c : Config} (hC : c.variant = .C) (g : RegFile) (d : Dir) : chanEn c g d = enTest c g.r0 := by
  cases d <;> simp [chanEn, hC]

theorem txEnReg_not_C {c : Config} (hC : c.variant ≠ .C) : txEnReg c = .r2 := by
  cases hv : c.variant <;> simp_all [txEnReg]

theorem txEnReg_C {c : Config} (hC : c.variant = .C) : txEnReg c = .r0 := by
  simp [txEnReg, hC]

/-- A write of a direction's enable register sets the enable of that direction, and in C of both (R30). -/
theorem chanEn_set_enReg (c : Config) (g : RegFile) (d d' : Dir) (v : Byte) :
    chanEn c (g.set (enReg c d) v) d' = if d' = d ∨ c.variant = .C then enTest c v else chanEn c g d' := by
  by_cases hC : c.variant = .C
  · cases d <;> simp [chanEn_C hC, enReg, txEnReg_C hC, hC]
  · cases d <;> cases d' <;> simp [chanEn_tx_not_C hC, enReg, txEnReg_not_C hC, hC]

/-- It sets the full condition of the same directions, but in C that of TX is in a register of its own (R29). -/
theorem chanFull_set_enReg (c : Config) (g : RegFile) (d d' : Dir) (v : Byte) :
    chanFull c (g.set (enReg c d) v) d' =
      if (d' = d ∨ c.variant = .C) ∧ ¬ (d' = .tx ∧ c.variant = .C) then fullTest v else chanFull c g d' := by
  by_cases hC : c.variant = .C
  · cases d <;> cases d' <;> simp [enReg, txEnReg_C hC, hC]
  · cases d <;> cases d' <;> simp [enReg, txEnReg_not_C hC, busyTest_not_C hC, hC]

theorem attaches_attachOf (c : Config) (d d' : Dir) : attaches c d' (attachOf d) = true ↔ d' = d ∨ c.variant = .C := by
  cases d <;> cases d' <;> simp [attaches, attachOf]

theorem detaches_detachOf (c : Config) (d d' : Dir) : detaches c d' (detachOf d) = true ↔ d' = d ∨ c.variant = .C := by
  cases d <;> cases d' <;> simp [detaches, detachOf]

/-! ### What a phase makes of the enables and full conditions -/

/-- Outside raw writes the CPU stores a whole byte in register 3 alone. -/
theorem storesAt_eq_r3 {i : Instr} {r : RegIx} (hraw : rawWrite i = false) (hi : storesAt i = some r) : r = .r3 := by
  cases i with
  | lwrtx _ | xmit _ | xmitr => exact (Option.some.inj hi).symm
  | cwr _ _ => cases hraw
  | _ => cases hi

theorem rawWrite_of_rawTarget {i : Instr} {r : RegIx} (hi : rawTarget i = some r) : rawWrite i = true := by
  cases i with
  | cbs _ _ | cbc _ _ | pwr _ _ => rfl
  | _ => cases hi

theorem agent_of_storesAt {i : Instr} {r : RegIx} (hi : storesAt i = some r) : i.agent = .cpu := by
  cases i with
  | cwr _ _ | lwrtx _ | xmit _ | xmitr => rfl
  | _ => cases hi

theorem agent_of_setsTxFull {i : Instr} (hi : setsTxFull i = true) : i.agent = .cpu := by
  cases i with
  | lsettx | xmit _ | xmitr => rfl
  | _ => cases hi

/-- Register 3 holds no enable (R26). -/
theorem chanEn_set_r3 (c : Config) (g : RegFile) (v : Byte) (d : Dir) : chanEn c (g.set .r3 v) d = chanEn c g d := by
  cases d <;> rfl

/-- In C register 2 holds no enable (R30). -/
theorem chanEn_set_r2_C {c : Config} (hC : c.variant = .C) (g : RegFile) (v : Byte) (d : Dir) :
    chanEn c (g.set .r2 v) d = chanEn c g d := by
  simp [chanEn_C hC]

theorem chanEn_setTxFull (c : Config) (g : RegFile) (d : Dir) :
    chanEn c (g.set .r2 (setBits fullMask g.r2)) d = chanEn c g d := by
  by_cases hC : c.variant = .C
  · exact chanEn_set_r2_C hC ..
  · cases d <;> simp [chanEn_tx_not_C hC]

theorem chanEn_clearRxFull (c : Config) (g : RegFile) (d : Dir) :
    chanEn c (g.set .r0 (clearBits fullMask g.r0)) d = chanEn c g d := by
  by_cases hC : c.variant = .C
  · simp [chanEn_C hC]
  · cases d <;> simp [chanEn_tx_not_C hC]

theorem busyTest_statusSetValue {c : Config} (hC : c.variant = .C) : busyTest c statusSetValue = true := by
  rw [busyTest_C hC]; rfl

theorem busyTest_takenValue (c : Config) : busyTest c (takenValue c) = false := by
  cases hv : c.variant <;> rw [busyTest, takenValue, hv] <;> rfl

theorem busyTest_zero (c : Config) : busyTest c 0x00 = false := by
  cases hv : c.variant <;> rw [busyTest, hv] <;> rfl

/-- What `TAKETX` and `PCLRST` write in register 2 is not full (R177 to R179). -/
theorem chanFull_set_takenValue (c : Config) (g : RegFile) : chanFull c (g.set .r2 (takenValue c)) .tx = false :=
  busyTest_takenValue c

theorem chanFull_set_zero (c : Config) (g : RegFile) : chanFull c (g.set .r2 0x00) .tx = false :=
  busyTest_zero c

/-! ### Ownership -/

/-- A CPU phase keeps the enables and `RXD`, does not fill RX and does not empty TX (R31). -/
theorem Writes.cpu_fields {c : Config} {i : Instr} {g g' : RegFile} (h : Writes c i g g') (hraw : rawWrite i = false)
    (hcpu : i.agent = .cpu) :
    (∀ d, chanEn c g' d = chanEn c g d) ∧ g'.get .r1 = g.get .r1 ∧
      (chanFull c g' .rx = true → chanFull c g .rx = true) ∧ (chanFull c g .tx = true → chanFull c g' .tx = true) := by
  cases h with
  | keep _ => exact ⟨fun _ => rfl, rfl, id, id⟩
  | store hi =>
    obtain rfl := storesAt_eq_r3 hraw hi
    exact ⟨chanEn_set_r3 _ _ _, rfl, id, id⟩
  | storeStatus _ hC _ =>
    refine ⟨fun d => ?_, rfl, id, fun _ => busyTest_statusSetValue hC⟩
    rw [chanEn_set_r2_C hC, chanEn_set_r3]
  | raw hi => simp [rawWrite_of_rawTarget hi] at hraw
  | setTxFull _ hC => exact ⟨chanEn_setTxFull _ _, rfl, id, by simp [busyTest_not_C hC]⟩
  | clearRxFull _ => exact ⟨chanEn_clearRxFull _ _, rfl, by simp, id⟩
  | @attach d _ | @detach d _ => cases d <;> cases hcpu
  | putPayload | putFull | take | clearStatus _ => cases hcpu

theorem get_r3_set_enReg (c : Config) (g : RegFile) (d : Dir) (v : Byte) :
    (g.set (enReg c d) v).get .r3 = g.get .r3 :=
  g.get_set_ne v (by cases d <;> cases hv : c.variant <;> simp [enReg, txEnReg, hv])

/-- Where a write of an enable register leaves TX full, it was (R31, R174). -/
theorem chanFull_tx_of_set_enReg {c : Config} {g : RegFile} {d : Dir} {v : Byte} (hv : fullTest v = false)
    (h : chanFull c (g.set (enReg c d) v) .tx = true) : chanFull c g .tx = true := by
  rw [chanFull_set_enReg] at h
  split at h
  · simp [hv] at h
  · exact h

/-- Where a write of an enable register empties RX, it reaches RX (R31). -/
theorem reaches_rx_of_set_enReg {c : Config} {g : RegFile} {d : Dir} {v : Byte} (h : chanFull c g .rx = true)
    (h' : chanFull c (g.set (enReg c d) v) .rx = false) : .rx = d ∨ c.variant = .C := by
  rw [chanFull_set_enReg] at h'
  split at h'
  · exact (‹_ ∧ _›).1
  · simp [h] at h'

/-- A probe phase keeps the TX payload, does not fill TX, and empties RX by an attach or a detach alone (R31). -/
theorem Writes.probe_fields {c : Config} {i : Instr} {g g' : RegFile} (h : Writes c i g g') (hraw : rawWrite i = false)
    (hprobe : i.agent = .probe) :
    g'.get .r3 = g.get .r3 ∧ (chanFull c g' .tx = true → chanFull c g .tx = true) ∧
      (chanFull c g .rx = true → chanFull c g' .rx = false → attaches c .rx i = true ∨ detaches c .rx i = true) := by
  have hstays : ∀ {p : Prop}, chanFull c g .rx = true → chanFull c g .rx = false → p := by simp_all
  cases h with
  | keep _ => exact ⟨rfl, id, hstays⟩
  | store hi | storeStatus hi _ _ => simp [agent_of_storesAt hi] at hprobe
  | raw hi => simp [rawWrite_of_rawTarget hi] at hraw
  | setTxFull hi _ => simp [agent_of_setsTxFull hi] at hprobe
  | clearRxFull hi => rcases hi with rfl | rfl <;> cases hprobe
  | attach =>
    exact ⟨get_r3_set_enReg .., chanFull_tx_of_set_enReg (fullTest_enMask c),
      fun h h' => .inl ((attaches_attachOf ..).mpr (reaches_rx_of_set_enReg h h'))⟩
  | detach =>
    exact ⟨get_r3_set_enReg .., chanFull_tx_of_set_enReg fullTest_zero,
      fun h h' => .inr ((detaches_detachOf ..).mpr (reaches_rx_of_set_enReg h h'))⟩
  | putPayload => exact ⟨rfl, id, hstays⟩
  | putFull => exact ⟨rfl, id, fun _ h => by simp at h⟩
  | take => exact ⟨rfl, fun h => absurd h (ne_true_of_eq_false (chanFull_set_takenValue c g)), hstays⟩
  | clearStatus _ => exact ⟨rfl, fun h => absurd h (ne_true_of_eq_false (chanFull_set_zero c g)), hstays⟩

/-- Settles O26, by the agent of the operation. -/
theorem eachSideWritesItsOwnFields : Obligations.EachSideWritesItsOwnFields := by
  unfold Obligations.EachSideWritesItsOwnFields
  intro i s t hraw h
  have hw := (exec_phase h).writes
  rw [exec_cfg_eq h]
  exact ⟨hw.cpu_fields hraw, hw.probe_fields hraw⟩

/-! ### The abstract state of a channel -/

theorem chanState_congr {c : Config} {g g' : RegFile} {d : Dir} (hen : chanEn c g' d = chanEn c g d)
    (hfull : chanFull c g' d = chanFull c g d) : chanState c g' d = chanState c g d := by
  rw [chanState, chanState, hen, hfull]

theorem chanState_of_chanEn_false {c : Config} {g : RegFile} {d : Dir} (h : chanEn c g d = false) :
    chanState c g d = .disabled := by
  simp [chanState, h]

/-- What an enabled channel's state says of its full condition (R35). -/
def stateOfFull (b : Bool) : ChanState :=
  if b then .enabledFull else .enabledEmpty

theorem chanState_of_chanEn {c : Config} {g : RegFile} {d : Dir} (h : chanEn c g d = true) :
    chanState c g d = stateOfFull (chanFull c g d) := by
  simp [chanState, stateOfFull, h]

/-- A channel that moves while its enable stays is enabled. -/
theorem chanState_of_ne {c : Config} {g g' : RegFile} {d : Dir} (hen : chanEn c g' d = chanEn c g d)
    (hne : chanState c g' d ≠ chanState c g d) : chanState c g' d = stateOfFull (chanFull c g' d) := by
  cases h : chanEn c g' d with
  | true => exact chanState_of_chanEn h
  | false => exact absurd ((chanState_of_chanEn_false h).trans (chanState_of_chanEn_false (hen ▸ h)).symm) hne

theorem fillsTx_of_setsTxFull {c : Config} {i : Instr} (hi : setsTxFull i = true) (hC : c.variant ≠ .C) : fillsTx c i = true := by
  cases i with
  | lsettx | xmit _ | xmitr => simp [fillsTx, hC]
  | _ => cases hi

theorem fillsTx_of_storesAt {c : Config} {i : Instr} (hraw : rawWrite i = false) (hi : storesAt i = some .r3)
    (hC : c.variant = .C) (hs : c.statusSetOnCpuWrite = true) : fillsTx c i = true := by
  cases i with
  | lwrtx _ | xmit _ | xmitr => simp [fillsTx, hC, hs]
  | cwr _ _ => cases hraw
  | _ => cases hi

/-- An attach brings a channel it reaches to an enabled state, full only over a stale status in C (R172, R174). -/
theorem attach_mayMoveTo {c : Config} {g : RegFile} {d d' : Dir}
    (hne : chanState c (g.set (enReg c d) (enMask c)) d' ≠ chanState c g d') :
    mayMoveTo c (attachOf d) d' (chanState c (g.set (enReg c d) (enMask c)) d') = true := by
  by_cases hr : d' = d ∨ c.variant = .C
  · have hen : chanEn c (g.set (enReg c d) (enMask c)) d' = true := by simp [chanEn_set_enReg, hr]
    have ha := (attaches_attachOf ..).mpr hr
    rw [chanState_of_chanEn hen, chanFull_set_enReg]
    by_cases hs : d' = .tx ∧ c.variant = .C
    · obtain ⟨rfl, hC⟩ := hs
      cases chanFull c g .tx <;> simp [hC, stateOfFull, mayMoveTo, ha]
    · cases d' <;> simp_all [stateOfFull, mayMoveTo]
  · exact absurd (chanState_congr (by simp [chanEn_set_enReg, hr]) (by simp [chanFull_set_enReg, hr])) hne

/-- A detach disables the channels it reaches (R173, R175). -/
theorem detach_mayMoveTo {c : Config} {g : RegFile} {d d' : Dir}
    (hne : chanState c (g.set (enReg c d) 0x00) d' ≠ chanState c g d') :
    mayMoveTo c (detachOf d) d' (chanState c (g.set (enReg c d) 0x00) d') = true := by
  by_cases hr : d' = d ∨ c.variant = .C
  · rw [chanState_of_chanEn_false ((chanEn_set_enReg ..).trans ((if_pos hr).trans (enTest_zero c)))]
    exact (detaches_detachOf ..).mpr hr
  · exact absurd (chanState_congr (by simp [chanEn_set_enReg, hr]) (by simp [chanFull_set_enReg, hr])) hne

/-- `PUTRX`'s last write marks RX full, and in C enables TX too (R176). -/
theorem putFull_mayMoveTo {c : Config} {g : RegFile} {b : Byte} {d : Dir}
    (hne : chanState c (g.set .r0 (enMask c ||| fullMask)) d ≠ chanState c g d) :
    mayMoveTo c (.putrx b) d (chanState c (g.set .r0 (enMask c ||| fullMask)) d) = true := by
  cases d with
  | rx => simp [chanState, mayMoveTo, isPutrx]
  | tx =>
    by_cases hC : c.variant = .C
    · have hen : chanEn c (g.set .r0 (enMask c ||| fullMask)) .tx = true := by simp [chanEn_C hC]
      rw [chanState_of_chanEn hen]
      cases chanFull c (g.set .r0 (enMask c ||| fullMask)) .tx <;> simp [stateOfFull, mayMoveTo, isPutrx, hC]
    · have hen : chanEn c (g.set .r0 (enMask c ||| fullMask)) .tx = chanEn c g .tx := by simp [chanEn_tx_not_C hC]
      exact absurd (chanState_congr hen rfl) hne

/-- In A and B `TAKETX` leaves TX enabled (R177). -/
theorem chanEn_take_not_C {c : Config} (hC : c.variant ≠ .C) (g : RegFile) :
    chanEn c (g.set .r2 (takenValue c)) .tx = true := by
  have hv : takenValue c = enMask c := by cases hv : c.variant <;> simp_all [takenValue, enMask]
  rw [hv, chanEn_tx_not_C hC]
  exact enTest_enMask c

/-- A phase that moves a channel is of an operation that may (R36). -/
theorem Writes.mayMoveTo {c : Config} {i : Instr} {g g' : RegFile} {d : Dir} (h : Writes c i g g') (hraw : rawWrite i = false)
    (hne : chanState c g' d ≠ chanState c g d) : mayMoveTo c i d (chanState c g' d) = true := by
  cases h with
  | keep _ => exact absurd rfl hne
  | store hi =>
    obtain rfl := storesAt_eq_r3 hraw hi
    exact absurd (by cases d <;> rfl) hne
  | storeStatus hi hC hs =>
    cases d with
    | rx => exact absurd rfl hne
    | tx =>
      rw [chanState_of_ne ((chanEn_set_r2_C hC ..).trans (chanEn_set_r3 ..)) hne]
      simp [busyTest_statusSetValue hC, stateOfFull, Machine.mayMoveTo, fillsTx_of_storesAt hraw hi hC hs]
  | raw hi => simp [rawWrite_of_rawTarget hi] at hraw
  | setTxFull hi hC =>
    cases d with
    | rx => exact absurd rfl hne
    | tx =>
      rw [chanState_of_ne (chanEn_setTxFull ..) hne]
      simp [busyTest_not_C hC, stateOfFull, Machine.mayMoveTo, fillsTx_of_setsTxFull hi hC]
  | clearRxFull hi =>
    cases d with
    | rx =>
      rw [chanState_of_ne (chanEn_clearRxFull ..) hne]
      rcases hi with rfl | rfl <;> simp [stateOfFull, Machine.mayMoveTo]
    | tx => exact absurd (chanState_congr (chanEn_clearRxFull ..) rfl) hne
  | attach => exact attach_mayMoveTo hne
  | detach => exact detach_mayMoveTo hne
  | putPayload => exact absurd (by cases d <;> rfl) hne
  | putFull => exact putFull_mayMoveTo hne
  | take =>
    cases d with
    | rx => exact absurd rfl hne
    | tx =>
      have hst : chanState c (g.set .r2 (takenValue c)) .tx = stateOfFull (chanFull c (g.set .r2 (takenValue c)) .tx) := by
        by_cases hC : c.variant = .C
        · exact chanState_of_ne (chanEn_set_r2_C hC ..) hne
        · exact chanState_of_chanEn (chanEn_take_not_C hC g)
      rw [hst, chanFull_set_takenValue]
      simp [stateOfFull, Machine.mayMoveTo]
  | clearStatus hC =>
    cases d with
    | rx => exact absurd rfl hne
    | tx =>
      rw [chanState_of_ne (chanEn_set_r2_C hC ..) hne, chanFull_set_zero]
      simp [stateOfFull, Machine.mayMoveTo]

/-- Settles O25, by what a phase writes. -/
theorem channelMovesOnlyByItsActors : Obligations.ChannelMovesOnlyByItsActors := by
  unfold Obligations.ChannelMovesOnlyByItsActors
  intro i s t d hraw h
  rw [exec_cfg_eq h]
  exact (exec_phase h).writes.mayMoveTo hraw

end Sys2Proof.Machine
end

section
/-!
SUPPORT. Proofs for the state family: the conforming probe's schedule, registers and ledger, the reset state, and the probe agent's
step.
-/

namespace Sys2Proof.Machine

/-! ### The conforming probe -/

/-- The ledger allows no raw write (R190). -/
theorem rawWrite_of_allows {l : Ledger} {i : Instr} (h : l.allows i = true) : rawWrite i = false := by
  cases i with
  | cwr _ _ | cbs _ _ | cbc _ _ | pwr _ _ => cases h
  | _ => rfl

/-- The words of a conforming schedule are decoded one by one, each to an action the ledger allows (R190). -/
theorem conformingFrom_avoids_rawWrite {c : Config} {ws : List CmdWord} {l : Ledger} {is : List Instr}
    (hd : probeActions ws = some is) (h : conformingFrom c l is = true) : wordsAvoid rawWrite ws = true := by
  induction ws generalizing l is with
  | nil => rfl
  | cons w ws ih =>
    unfold probeActions at hd
    split at hd
    · rename_i i js hi hjs
      cases hd
      obtain ⟨hallows, hrest⟩ := Bool.and_eq_true_iff.mp h
      have htail := ih hjs hrest
      simp only [wordsAvoid] at htail
      simp [wordsAvoid, (decodeFor_ok hi).1, rawWrite_of_allows hallows, htail]
    · cases hd

theorem conformingSchedule_avoids_rawWrite {c : Config} {ws : List CmdWord} (h : conformingSchedule c ws = true) :
    wordsAvoid rawWrite ws = true := by
  unfold conformingSchedule at h
  split at h
  · exact conformingFrom_avoids_rawWrite ‹_› h
  · cases h

/-! ### A run takes the words of its schedule in order -/

theorem exec_psched_eq {i : Instr} {s t : State} (h : exec i s = .next t) : t.psched = s.psched := by
  cases ha : i.agent with
  | cpu =>
    obtain ⟨-, -, -, hp, -⟩ := cpuOperationFrame i s t ha h
    exact hp
  | probe =>
    obtain ⟨-, -, -, -, -, hp, -⟩ := probeActionFrame i s t ha h
    exact hp

/-- A step takes at most the first of the words still to be taken (R24, R88). -/
theorem step_psched_suffix {s t : State} (h : step s = .next t) : t.psched <:+ s.psched := by
  rw [← s.takeTurn_psched]
  rcases step_next h with ⟨_, h⟩ | ⟨_, h⟩
  · rcases cpuStep_next h with ⟨_, rfl⟩ | ⟨_, _, _, _, _, h⟩ | ⟨_, _, _, _, _, _, h⟩
    · exact List.suffix_rfl
    · exact exec_psched_eq h ▸ List.suffix_rfl
    · exact exec_psched_eq h ▸ List.suffix_rfl
  · rcases probeStep_next h with ⟨_, _, rfl⟩ | ⟨_, _, _, _, h⟩ | ⟨w, ws, _, _, hws, _, h⟩
    · exact List.suffix_rfl
    · exact exec_psched_eq h ▸ List.suffix_rfl
    · rw [exec_psched_eq h, hws]
      exact List.suffix_cons w ws

/-- The words still to be taken are the last of those given (log 16). -/
theorem psched_suffix_scheduleGiven {f : Nat → Feed} {r : Nat → State} (hr : IsRunOf f r) (n : Nat) :
    (r n).psched <:+ scheduleGiven f r n := by
  induction n with
  | zero => exact List.suffix_rfl
  | succ n ih =>
    obtain ⟨t, ht, h⟩ := hr n
    obtain ⟨taken, htaken⟩ := (step_psched_suffix ht).trans ih
    exact ⟨taken, by rw [h, State.feed_psched, scheduleGiven, ← htaken, List.append_assoc]⟩

theorem wordsAvoid_of_suffix {bad : Instr → Bool} {vs ws : List CmdWord} (h : vs <:+ ws) (hws : wordsAvoid bad ws = true) :
    wordsAvoid bad vs = true := by
  obtain ⟨us, rfl⟩ := h
  rw [wordsAvoid_append] at hws
  exact (Bool.and_eq_true_iff.mp hws).2

/-! ### Register 0 and the ledger -/

/-- What a probe phase that is no raw write leaves in register 0 (R172, R173, R176). -/
theorem Writes.probe_r0 {c : Config} {i : Instr} {g g' : RegFile} (h : Writes c i g g') (hprobe : i.agent = .probe)
    (hraw : rawWrite i = false) :
    g'.r0 = g.r0 ∨ g'.r0 = 0x00 ∨ g'.r0 = enMask c ∨ g'.r0 = enMask c ||| 0x01 := by
  cases h with
  | keep _ => exact .inl rfl
  | store hi | storeStatus hi _ _ => simp [agent_of_storesAt hi] at hprobe
  | raw hi => simp [rawWrite_of_rawTarget hi] at hraw
  | setTxFull hi _ => simp [agent_of_setsTxFull hi] at hprobe
  | clearRxFull hi => rcases hi with rfl | rfl <;> cases hprobe
  | @attach d _ => cases d <;> cases hv : c.variant <;> simp [enReg, txEnReg, hv]
  | @detach d _ => cases d <;> cases hv : c.variant <;> simp [enReg, txEnReg, hv]
  | putPayload | take | clearStatus _ => exact .inl rfl
  | putFull => exact .inr (.inr (.inr rfl))

/-- The ledger's entry of a direction after an action (R190). -/
theorem after_on (c : Config) (l : Ledger) (i : Instr) (d : Dir) :
    (l.after c i).on d = ((l.on d || attaches c d i) && !detaches c d i) := by
  cases d <;> rfl

theorem movesEnable_of_attaches {c : Config} {d : Dir} {i : Instr} (h : attaches c d i = true) : movesEnable i = true := by
  have hi : i = .attrx ∨ i = .atttx := by cases d <;> simp [attaches] at h <;> tauto
  rcases hi with rfl | rfl <;> rfl

theorem movesEnable_of_detaches {c : Config} {d : Dir} {i : Instr} (h : detaches c d i = true) : movesEnable i = true := by
  have hi : i = .detrx ∨ i = .dettx := by cases d <;> simp [detaches] at h <;> tauto
  rcases hi with rfl | rfl <;> rfl

/-- An action that attaches and detaches nothing leaves the ledger as it was. -/
theorem after_on_of_keeps {c : Config} {l : Ledger} {i : Instr} (h : movesEnable i = false) (d : Dir) :
    (l.after c i).on d = l.on d := by
  have ha : attaches c d i = false := Bool.eq_false_iff.mpr fun hi => by simp [movesEnable_of_attaches hi] at h
  have hd : detaches c d i = false := Bool.eq_false_iff.mpr fun hi => by simp [movesEnable_of_detaches hi] at h
  simp [after_on, ha, hd]

theorem after_attachOf_on (c : Config) (l : Ledger) (d d' : Dir) :
    (l.after c (attachOf d)).on d' = if d' = d ∨ c.variant = .C then true else l.on d' := by
  have hd : detaches c d' (attachOf d) = false := by
    rw [Bool.eq_false_iff]
    cases d <;> cases d' <;> simp [detaches, attachOf]
  rw [after_on, hd]
  split
  · simp [(attaches_attachOf ..).mpr ‹_›]
  · simp [Bool.eq_false_iff.mpr (mt (attaches_attachOf ..).mp ‹_›)]

theorem after_detachOf_on (c : Config) (l : Ledger) (d d' : Dir) :
    (l.after c (detachOf d)).on d' = if d' = d ∨ c.variant = .C then false else l.on d' := by
  have ha : attaches c d' (detachOf d) = false := by
    rw [Bool.eq_false_iff]
    cases d <;> cases d' <;> simp [attaches, detachOf]
  rw [after_on, ha]
  split
  · simp [(detaches_detachOf ..).mpr ‹_›]
  · simp [Bool.eq_false_iff.mpr (mt (detaches_detachOf ..).mp ‹_›)]

/-- `PUTRX`'s last write enables nothing that was not, where RX is enabled (R176). -/
theorem chanEn_putFull {c : Config} {g : RegFile} (h : chanEn c g .rx = true) (d : Dir) :
    chanEn c (g.set .r0 (enMask c ||| fullMask)) d = chanEn c g d := by
  by_cases hC : c.variant = .C
  · rw [chanEn_C hC] at h
    simp [chanEn_C hC, h]
  · cases d with
    | rx => simpa using h.symm
    | tx => simp [chanEn_tx_not_C hC]

/-- `TAKETX`'s last write enables nothing that was not, where TX is enabled (R177, R178). -/
theorem chanEn_take {c : Config} {g : RegFile} (h : chanEn c g .tx = true) (d : Dir) :
    chanEn c (g.set .r2 (takenValue c)) d = chanEn c g d := by
  by_cases hC : c.variant = .C
  · exact chanEn_set_r2_C hC ..
  · cases d with
    | rx => rfl
    | tx => rw [chanEn_take_not_C hC, h]

theorem agent_of_allows {l : Ledger} {i : Instr} (h : l.allows i = true) : i.agent = .probe := by
  cases i with
  | prd _ | attrx | detrx | atttx | dettx | putrx _ | taketx | pclrst => rfl
  | _ => cases h

/-- A phase of an action that the ledger allows keeps it in agreement with the enables (R190, R265). -/
theorem Writes.chanEn_after {c : Config} {l : Ledger} {i : Instr} {g g' : RegFile} (h : Writes c i g g')
    (hallows : l.allows i = true) (hl : ∀ d, chanEn c g d = l.on d) (d : Dir) : chanEn c g' d = (l.after c i).on d := by
  cases h with
  | keep hi => rw [after_on_of_keeps hi, hl]
  | store hi | storeStatus hi _ _ =>
    simpa [agent_of_storesAt hi] using agent_of_allows hallows
  | raw hi => simpa [rawWrite_of_rawTarget hi] using rawWrite_of_allows hallows
  | setTxFull hi _ => simpa [agent_of_setsTxFull hi] using agent_of_allows hallows
  | clearRxFull hi => rcases hi with rfl | rfl <;> cases hallows
  | attach => rw [chanEn_set_enReg, enTest_enMask, hl, after_attachOf_on]
  | detach => rw [chanEn_set_enReg, enTest_zero, hl, after_detachOf_on]
  | putPayload =>
    rw [after_on_of_keeps rfl, ← hl]
    cases d <;> rfl
  | putFull => rw [after_on_of_keeps rfl, ← hl, chanEn_putFull ((hl .rx).trans hallows)]
  | take => rw [after_on_of_keeps rfl, ← hl, chanEn_take ((hl .tx).trans hallows)]
  | clearStatus hC => rw [chanEn_set_r2_C hC, after_on_of_keeps rfl, hl]

/-- Settles O27: the schedule by induction on its words, the registers and the ledger by what a phase writes. -/
theorem conformingProbeWritesOnlyProtocolValues : Obligations.ConformingProbeWritesOnlyProtocolValues := by
  unfold Obligations.ConformingProbeWritesOnlyProtocolValues
  refine ⟨fun _ _ => conformingSchedule_avoids_rawWrite, ?_, ?_, ?_⟩
  · rintro f r ⟨hr, -, -, hsched, -⟩ n
    exact wordsAvoid_of_suffix (psched_suffix_scheduleGiven hr n) (conformingSchedule_avoids_rawWrite (hsched n))
  · intro i s t hprobe hraw h
    exact (exec_phase h).writes.probe_r0 hprobe hraw
  · intro l i s t hallows h hl
    rw [exec_cfg_eq h]
    exact (exec_phase h).writes.chanEn_after hallows hl

/-! ### Reset and the probe agent's step -/

/-- Settles O7: each field by its definition; enable is tested in a register that holds 0x00. -/
theorem resetLeavesSpecValues : Obligations.ResetLeavesSpecValues := by
  unfold Obligations.ResetLeavesSpecValues
  intro c
  refine ⟨rfl, rfl, rfl, rfl, rfl, rfl, rfl, rfl, rfl, rfl, rfl, rfl, rfl, fun d => chanState_of_chanEn_false ?_⟩
  by_cases hC : c.variant = .C
  · exact (chanEn_C hC ..).trans (enTest_zero c)
  · cases d with
    | rx => exact enTest_zero c
    | tx => exact (chanEn_tx_not_C hC _).trans (enTest_zero c)

/-- Settles O8: both agents are idle, `pc` is 0, the history is empty, and RX full is not set. -/
theorem resetMeetsInvariants : Obligations.ResetMeetsInvariants := by
  unfold Obligations.ResetMeetsInvariants
  intro c prog psched turns hprog
  refine ⟨⟨hprog, Nat.zero_le _, rfl, rfl⟩, ⟨rfl, rfl⟩, fun h => ?_⟩
  exact absurd h (ne_true_of_eq_false fullTest_zero)

/-- Settles O11, by the cases of the probe agent's step. -/
theorem probeStepRunsDecodedWord : Obligations.ProbeStepRunsDecodedWord := by
  unfold Obligations.ProbeStepRunsDecodedWord
  refine ⟨fun s op ph lat hb => ?_, fun s hi hs => ?_, fun s w ws i hi hs hd => ?_, fun s w ws e hi hs hd => ?_⟩
  · simp [agentStep, probeStep, hb]
  · simp [agentStep, probeStep, hi, hs]
  · simp [agentStep, probeStep, hi, hs, hd]
  · simp [agentStep, probeStep, hi, hs, hd]

end Sys2Proof.Machine
end

section
/-!
SUPPORT. Proofs for the memory family (20_memory.md): what every step keeps while neither agent uses some operations. The operation of
a step is one that rests in its agent's record before and after it (`Rests`), and none of those avoided.
-/

namespace Sys2Proof.Machine

/-- The operation recorded in `cur` rests there, in a state of a run. -/
theorem rests_of_cur {s : State} {i : Instr} {ph : CpuPhase} {lat : Content} (hs : s.Inv) (h : s.cur = .busy i ph lat) :
    Rests s.cfg i s := by
  obtain ⟨-, -, hcur, -⟩ := hs
  simp only [State.curOk, h, Bool.and_eq_true] at hcur
  obtain ⟨-, hr⟩ := hcur
  exact .cpuBusy (agent_of_cpuRecordOk hr) h hr

/-- The action recorded in `pcur` rests there, in a state of a run. -/
theorem rests_of_pcur {s : State} {i : Instr} {ph : ProbePhase} {lat : Content} (hs : s.Inv) (h : s.pcur = .busy i ph lat) :
    Rests s.cfg i s := by
  obtain ⟨-, -, -, hr⟩ := hs
  rw [State.pcurOk, h] at hr
  exact .probeBusy (agent_of_probeRecordOk hr) h hr

/-- A word of a list that avoids some operations decodes to none of them. -/
theorem avoided_of_mem {bad : Instr → Bool} {ws : List CmdWord} {w : CmdWord} {i : Instr} (hws : wordsAvoid bad ws = true)
    (hw : w ∈ ws) (hd : decode w = .ok i) : bad i = false := by
  have h := List.all_eq_true.mp hws w hw
  simpa [hd] using h

theorem avoided_of_busy {φ : Type} {bad : Instr → Bool} {i : Instr} {ph : φ} {lat : Content}
    (h : (Progress.busy i ph lat).avoids bad = true) : bad i = false := by
  simpa [Progress.avoids] using h

theorem avoids_takeTurn (s : State) (bad : Instr → Bool) : s.takeTurn.avoids bad = s.avoids bad := by
  simp [State.avoids]

/-- The parts of what a state avoids. -/
theorem avoids_iff {s : State} {bad : Instr → Bool} : s.avoids bad = true ↔
    wordsAvoid bad s.prog = true ∧ wordsAvoid bad s.psched = true ∧ s.cur.avoids bad = true ∧ s.pcur.avoids bad = true := by
  simp [State.avoids, and_assoc]

/-- What every operation keeps that rests in its agent's record and is none of those avoided, and the use of a turn and of a schedule's
first word too, every step keeps. -/
theorem step_keeps_avoiding {bad : Instr → Bool} {P : State → Prop}
    (hexec : ∀ i s t, Rests s.cfg i s → bad i = false → P s → exec i s = .next t → P t)
    (hturn : ∀ s : State, P s → P s.takeTurn) (hsched : ∀ (s : State) ws, P s → P { s with psched := ws })
    {s t : State} (hinv : s.Inv) (hav : s.avoids bad = true) (hs : P s) (h : step s = .next t) : P t := by
  obtain ⟨hprog, hpsched, hcur, hpcur⟩ := avoids_iff.mp ((avoids_takeTurn s bad).trans hav)
  have hinv' := inv_takeTurn hinv
  have hs' := hturn s hs
  rcases step_next h with ⟨-, h⟩ | ⟨-, h⟩
  · rcases cpuStep_next h with ⟨-, rfl⟩ | ⟨op, ph, lat, -, hc, h⟩ | ⟨w, i, -, hc, hf, hd, h⟩
    · exact hs'
    · exact hexec _ _ _ (rests_of_cur hinv' hc) (avoided_of_busy (hc ▸ hcur)) hs' h
    · obtain ⟨hw, hcpu⟩ := decodeFor_ok hd
      exact hexec _ _ _ (.cpuIdle hcpu hc) (avoided_of_mem hprog (List.mem_of_getElem? hf) hw) hs' h
  · rcases probeStep_next h with ⟨-, -, rfl⟩ | ⟨op, ph, lat, hc, h⟩ | ⟨w, ws, i, hc, hws, hd, h⟩
    · exact hs'
    · exact hexec _ _ _ (rests_of_pcur hinv' hc) (avoided_of_busy (hc ▸ hpcur)) hs' h
    · obtain ⟨hw, hprobe⟩ := decodeFor_ok hd
      exact hexec _ { s.takeTurn with psched := ws } _ (.probeIdle hprobe hc)
        (avoided_of_mem hpsched (hws ▸ List.mem_cons_self) hw) (hsched _ ws hs') h

/-- The records after a phase of an operation that is none of those avoided. -/
theorem exec_records_avoid {bad : Instr → Bool} {i : Instr} {s t : State} (hi : bad i = false)
    (hs : s.cur.avoids bad = true ∧ s.pcur.avoids bad = true) (h : exec i s = .next t) :
    t.cur.avoids bad = true ∧ t.pcur.avoids bad = true := by
  obtain ⟨hcur, hpcur⟩ := hs
  have hcpu : i.agent = .cpu → t.pcur.avoids bad = true := fun ha => by
    obtain ⟨-, -, hp, -⟩ := cpuOperationFrame i s t ha h
    rwa [hp]
  have hprobe : i.agent = .probe → t.cur.avoids bad = true := fun ha => by
    obtain ⟨-, -, -, -, hc, -⟩ := probeActionFrame i s t ha h
    rwa [hc]
  cases (exec_phase h).rests with
  | cpuIdle ha hc => exact ⟨by simp [hc, Progress.avoids], hcpu ha⟩
  | cpuBusy ha hc _ => exact ⟨by simp [hc, Progress.avoids, hi], hcpu ha⟩
  | probeIdle ha hc => exact ⟨hprobe ha, by simp [hc, Progress.avoids]⟩
  | probeBusy ha hc _ => exact ⟨hprobe ha, by simp [hc, Progress.avoids, hi]⟩

/-- What neither agent uses, it will not use after a step either. -/
theorem step_avoids {bad : Instr → Bool} {s t : State} (hinv : s.Inv) (hav : s.avoids bad = true) (h : step s = .next t) :
    t.avoids bad = true := by
  obtain ⟨hprog, hpsched, hrecords⟩ := avoids_iff.mp hav
  refine avoids_iff.mpr ⟨?_, wordsAvoid_of_suffix (step_psched_suffix h) hpsched, ?_⟩
  · rwa [(configAndProgramAreFixed s t h).2]
  · refine step_keeps_avoiding (P := fun u => u.cur.avoids bad = true ∧ u.pcur.avoids bad = true)
      (fun _ _ _ _ => exec_records_avoid) (fun u hu => ?_) (fun _ _ hu => hu) hinv hav hrecords h
    rwa [u.takeTurn_cur, u.takeTurn_pcur]

end Sys2Proof.Machine
end

section
/-!
SUPPORT. Proofs for the memory family: one slot as a machine of its own (`Slot`), whose moves keep its books, and the TX slot and the RX
slot of the block as two of them (R73, R152).
-/

namespace Sys2Proof.Machine

/-! ### A slot and its moves -/

/-- A direction's slot, with the bytes that went through it: the producer fills an empty slot and marks it full, in one transition or in
two; the consumer sees it full, latches the byte and empties it. -/
structure Slot where
  full : Bool
  payload : Content
  /-- The bytes put in the slot, in order. -/
  put : List Byte
  /-- The bytes taken from it, in order. -/
  got : List Byte
  /-- The producer has found the slot empty and writes the payload next. -/
  filling : Bool
  /-- The producer has written the payload and marks the slot full next. -/
  marking : Bool
  /-- The consumer has found the slot full and reads the payload next. -/
  seen : Bool
  /-- What the consumer has read, while it has not emptied the slot yet. -/
  latched : Option Content

/-- The byte in the slot that is not taken yet. -/
def Slot.pending (c : Slot) : List Byte :=
  if c.full || c.marking then c.payload.toList else []

/-- Each side waits for the other's mark, and the bytes put are those taken and the one pending. -/
structure Slot.Ok (c : Slot) : Prop where
  producer : c.filling = true ∨ c.marking = true → c.full = false
  seen : c.seen = true → c.full = true
  latched : ∀ lat, c.latched = some lat → c.full = true ∧ lat = c.payload
  books : c.put = c.got ++ c.pending

/-- What one phase may do to a slot. -/
inductive Slot.Move (c d : Slot) : Prop
  | stay (h : d = c)
  | ready (hempty : c.full = false) (h : d = { c with filling := true })
  | fill (b : Byte) (hf : c.filling = true) (hm : c.marking = false)
      (h : d = { c with filling := false, marking := true, payload := .byte b, put := c.put ++ [b] })
  | mark (hm : c.marking = true) (hf : c.filling = false) (h : d = { c with marking := false, full := true })
  | fillAndMark (b : Byte) (hf : c.filling = true) (hm : c.marking = false)
      (h : d = { c with filling := false, full := true, payload := .byte b, put := c.put ++ [b] })
  | see (hfull : c.full = true) (h : d = { c with seen := true })
  | latch (hs : c.seen = true) (h : d = { c with seen := false, latched := some c.payload })
  | take (b : Byte) (hl : c.latched = some (.byte b)) (hs : c.seen = false)
      (h : d = { c with latched := none, full := false, got := c.got ++ [b] })

/-- A slot that is not full has a consumer that waits. -/
theorem Slot.Ok.consumer_away {c : Slot} (hc : c.Ok) (h : c.full = false) : c.seen = false ∧ c.latched = none := by
  refine ⟨Bool.eq_false_iff.mpr fun hs => ?_, Option.eq_none_iff_forall_ne_some.mpr fun lat hl => ?_⟩
  · simp [hc.seen hs] at h
  · simp [(hc.latched lat hl).1] at h

/-- A slot that is full has a producer that waits. -/
theorem Slot.Ok.producer_away {c : Slot} (hc : c.Ok) (h : c.full = true) : c.filling = false ∧ c.marking = false := by
  have hp := mt hc.producer (by simp [h])
  simpa using hp

/-- Every move keeps the books of a slot. -/
theorem Slot.Move.ok {c d : Slot} (h : Move c d) (hc : c.Ok) : d.Ok := by
  have hbooks := hc.books
  cases h with
  | stay h => exact h ▸ hc
  | ready hempty h =>
    subst h
    exact ⟨fun _ => hempty, hc.seen, hc.latched, hbooks⟩
  | fill b hf hm h =>
    subst h
    have hempty := hc.producer (.inl hf)
    refine ⟨fun _ => hempty, hc.seen, fun lat hl => ?_, ?_⟩
    · simp [(hc.consumer_away hempty).2] at hl
    · simpa [pending, hempty, hm, Content.toList] using hbooks
  | mark hm hf h =>
    subst h
    obtain ⟨-, hnone⟩ := hc.consumer_away (hc.producer (.inr hm))
    refine ⟨by simp [hf], fun _ => rfl, fun lat hl => ?_, ?_⟩
    · simp [hnone] at hl
    · simpa [pending, hm] using hbooks
  | fillAndMark b hf hm h =>
    subst h
    have hempty := hc.producer (.inl hf)
    refine ⟨by simp [hm], fun _ => rfl, fun lat hl => ?_, ?_⟩
    · simp [(hc.consumer_away hempty).2] at hl
    · simpa [pending, hempty, hm, Content.toList] using hbooks
  | see hfull h =>
    subst h
    exact ⟨hc.producer, fun _ => hfull, hc.latched, hbooks⟩
  | latch hs h =>
    subst h
    exact ⟨hc.producer, nofun, fun lat hl => ⟨hc.seen hs, (Option.some.inj hl).symm⟩, hbooks⟩
  | take b hl hs h =>
    subst h
    obtain ⟨hfull, hb⟩ := hc.latched _ hl
    obtain ⟨-, hm⟩ := hc.producer_away hfull
    refine ⟨fun _ => rfl, by simp [hs], nofun, ?_⟩
    simpa [pending, hfull, hm, ← hb, Content.toList] using hbooks

/-! ### The two slots of the block -/

/-- A consumer's latch, while it stands where the latch holds the slot's byte. -/
def latchIf (holds : Bool) (lat : Content) : Option Content :=
  if holds then some lat else none

@[simp] theorem latchIf_true (lat : Content) : latchIf true lat = some lat := rfl
@[simp] theorem latchIf_false (lat : Content) : latchIf false lat = none := rfl

@[simp] theorem latchIf_eq_some {holds : Bool} {lat lat' : Content} : latchIf holds lat = some lat' ↔ holds = true ∧ lat = lat' := by
  simp [latchIf]

/-- The TX slot: the CPU agent fills it, the probe takes from it (R146, R147, R177, R178). -/
def State.txSlot (s : State) : Slot :=
  { full := busyTest s.cfg s.regs.r2
    payload := s.regs.r3
    put := sentBytes s.history
    got := s.plog
    filling := s.atPhase .t1
    marking := s.atPhase .t2
    seen := s.takeAt .p1
    latched := latchIf (s.takeAt .p2) s.pcurLat }

/-- The RX slot: the probe fills it, the CPU agent takes from it (R144, R176). -/
def State.rxSlot (s : State) : Slot :=
  { full := fullTest s.regs.r0
    payload := s.regs.r1
    put := deliveredBytes s.history
    got := s.clog
    filling := s.putAt .p1
    marking := s.putAt .p2
    seen := s.atPhase .v1
    latched := latchIf (s.atPhase .v2) s.curLat }

/-- The discipline of the TX slot is that of its machine. -/
theorem txSlot_iff {s : State} : s.TxSlot ↔
    s.Inv ∧ s.avoids breaksSlot = true ∧ (s.cfg.variant = .C → s.cfg.statusSetOnCpuWrite = true) ∧ s.txSlot.Ok := by
  refine and_congr_right fun _ => and_congr_right fun _ => and_congr_right fun _ => ⟨?_, ?_⟩
  · rintro ⟨hprod, hseen, hlat, hbooks⟩
    exact ⟨hprod, hseen, by simpa [State.txSlot] using hlat, hbooks⟩
  · rintro ⟨hprod, hseen, hlat, hbooks⟩
    exact ⟨hprod, hseen, by simpa [State.txSlot] using hlat, hbooks⟩

/-- The discipline of the RX slot is that of its machine. -/
theorem rxSlot_iff {s : State} : s.RxSlot ↔ s.Inv ∧ s.avoids breaksSlot = true ∧ s.rxSlot.Ok := by
  refine and_congr_right fun _ => and_congr_right fun _ => ⟨?_, ?_⟩
  · rintro ⟨hprod, hseen, hlat, hbooks⟩
    exact ⟨hprod, hseen, by simpa [State.rxSlot] using hlat, hbooks⟩
  · rintro ⟨hprod, hseen, hlat, hbooks⟩
    exact ⟨hprod, hseen, by simpa [State.rxSlot] using hlat, hbooks⟩

theorem txSlot_takeTurn (s : State) : s.takeTurn.txSlot = s.txSlot := by
  unfold State.takeTurn
  split <;> rfl

theorem rxSlot_takeTurn (s : State) : s.takeTurn.rxSlot = s.rxSlot := by
  unfold State.takeTurn
  split <;> rfl

/-! ### The bytes put in a slot -/

theorem sentBytes_append (h : List Event) (e : Event) : sentBytes (h ++ [e]) =
    sentBytes h ++ if e.agent = .cpu ∧ e.kind = .wr ∧ e.reg = .r3 then [e.value] else [] := by
  rw [sentBytes, List.filterMap_append]
  simp only [List.filterMap_cons, List.filterMap_nil]
  split <;> simp_all [sentBytes]

theorem deliveredBytes_append (h : List Event) (e : Event) : deliveredBytes (h ++ [e]) =
    deliveredBytes h ++ if e.agent = .probe ∧ e.kind = .wr ∧ e.reg = .r1 then [e.value] else [] := by
  rw [deliveredBytes, List.filterMap_append]
  simp only [List.filterMap_cons, List.filterMap_nil]
  split <;> simp_all [deliveredBytes]

end Sys2Proof.Machine
end

section
/-!
SUPPORT. Proofs for the memory family: the operations that leave a slot alone, by their events, their records and their frames.
-/

namespace Sys2Proof.Machine

/-! ### Operations that leave a slot alone -/

/-- The operations that write no register, whatever their phase: the tests, the reads and the control flow. -/
def observes : Instr → Bool
  | .crd _ | .lenrx | .lentx | .lfulrx | .lbsytx | .lrdrx | .enrx | .entx | .poll | .prd _ => true
  | .jmp _ | .jz _ | .jnz _ | .halt => true
  | _ => false

/-- An operation that observes makes at most one access, a read. -/
theorem exec_history_of_observes {i : Instr} {s t : State} (hi : observes i = true) (h : exec i s = .next t) :
    t.history = s.history ∨ ∃ r v, t.history = s.history ++ [⟨i.agent, .rd, r, v⟩] := by
  have htest : ∀ {op r test}, cpuTest op r test s = .next t → ∃ r v, t.history = s.history ++ [⟨.cpu, .rd, r, v⟩] := fun h => by
    obtain ⟨v, -, rfl⟩ := cpuTest_next h
    exact ⟨_, v, rfl⟩
  have hload : ∀ {op r}, cpuLoad op r s = .next t → ∃ r v, t.history = s.history ++ [⟨.cpu, .rd, r, v⟩] := fun h => by
    obtain ⟨v, -, rfl⟩ := cpuLoad_next h
    exact ⟨_, v, rfl⟩
  cases i with
  | crd r => exact .inr (hload (refuseOr_next h).2)
  | lenrx | lentx | lfulrx | lbsytx | enrx | entx | poll =>
    simp only [exec, execLenrx, execLentx, execLfulrx, execLbsytx, execEnrx, execEntx, execPoll] at h
    exact .inr (htest h)
  | lrdrx => exact .inr (hload h)
  | prd r =>
    simp only [exec, execPrd] at h
    obtain ⟨v, -, h⟩ := portRead_next h
    cases h
    exact .inr ⟨r, v, rfl⟩
  | jmp b | halt =>
    cases h
    exact .inl rfl
  | jz b | jnz b =>
    obtain ⟨v, -, h⟩ := readRes_next h
    split at h <;> cases h <;> exact .inl rfl
  | _ => cases hi

/-- An operation that observes may write no register. -/
theorem mayWrite_of_observes {i : Instr} (hi : observes i = true) (c : Config) (j : RegIx) : mayWrite c i j = false := by
  cases i with
  | crd _ | lenrx | lentx | lfulrx | lbsytx | lrdrx | enrx | entx | poll | prd _ => rfl
  | jmp _ | jz _ | jnz _ | halt => rfl
  | _ => cases hi

/-- The operations that keep to the premise of R152: those that observe, and the four transfers. -/
theorem slotOps_cases {i : Instr} (hi : breaksSlot i = false) :
    observes i = true ∨ i = .recv ∨ i = .taketx ∨ (∃ b, i = .putrx b) ∨ setsTxFull i = true := by
  cases i with
  | recv => exact .inr (.inl rfl)
  | taketx => exact .inr (.inr (.inl rfl))
  | putrx b => exact .inr (.inr (.inr (.inl ⟨b, rfl⟩)))
  | xmit _ | xmitr => exact .inr (.inr (.inr (.inr rfl)))
  | cwr _ _ | cbs _ _ | cbc _ _ | lsettx | lclrrx | lwrtx _ => cases hi
  | pwr _ _ | attrx | detrx | atttx | dettx | pclrst => cases hi
  | _ => exact .inl rfl

/-- An event of another agent is no byte sent. -/
theorem sentBytes_append_probe (h : List Event) {e : Event} (he : e.agent = .probe) : sentBytes (h ++ [e]) = sentBytes h := by
  simp [sentBytes_append, he]

theorem sentBytes_append_kind (h : List Event) {e : Event} (he : e.kind ≠ .wr) : sentBytes (h ++ [e]) = sentBytes h := by
  simp [sentBytes_append, he]

theorem deliveredBytes_append_cpu (h : List Event) {e : Event} (he : e.agent = .cpu) :
    deliveredBytes (h ++ [e]) = deliveredBytes h := by
  simp [deliveredBytes_append, he]

theorem deliveredBytes_append_kind (h : List Event) {e : Event} (he : e.kind ≠ .wr) :
    deliveredBytes (h ++ [e]) = deliveredBytes h := by
  simp [deliveredBytes_append, he]

theorem exec_sentBytes_of_probe {i : Instr} {s t : State} (hi : i.agent = .probe) (h : exec i s = .next t) :
    sentBytes t.history = sentBytes s.history := by
  rcases onePhaseOneAccess i s t h with hh | ⟨e, he, hh⟩
  · rw [hh]
  · rw [hh, sentBytes_append_probe _ (he.trans hi)]

theorem exec_deliveredBytes_of_cpu {i : Instr} {s t : State} (hi : i.agent = .cpu) (h : exec i s = .next t) :
    deliveredBytes t.history = deliveredBytes s.history := by
  rcases onePhaseOneAccess i s t h with hh | ⟨e, he, hh⟩
  · rw [hh]
  · rw [hh, deliveredBytes_append_cpu _ (he.trans hi)]

theorem exec_sentBytes_of_observes {i : Instr} {s t : State} (hi : observes i = true) (h : exec i s = .next t) :
    sentBytes t.history = sentBytes s.history := by
  rcases exec_history_of_observes hi h with hh | ⟨r, v, hh⟩
  · rw [hh]
  · rw [hh, sentBytes_append_kind _ (by simp)]

theorem exec_deliveredBytes_of_observes {i : Instr} {s t : State} (hi : observes i = true) (h : exec i s = .next t) :
    deliveredBytes t.history = deliveredBytes s.history := by
  rcases exec_history_of_observes hi h with hh | ⟨r, v, hh⟩
  · rw [hh]
  · rw [hh, deliveredBytes_append_kind _ (by simp)]

/-! ### Where an agent's record stands -/

@[simp] theorem State.cpuGoto_atPhase (s : State) (op : Instr) (ph : CpuPhase) (lat : Content) (q : CpuPhase) :
    (s.cpuGoto op ph lat).atPhase q = decide (ph = q) := rfl
@[simp] theorem State.cpuDone_atPhase (s : State) (q : CpuPhase) : s.cpuDone.atPhase q = false := rfl
@[simp] theorem State.cpuGoto_curLat (s : State) (op : Instr) (ph : CpuPhase) (lat : Content) :
    (s.cpuGoto op ph lat).curLat = lat := rfl
@[simp] theorem State.probeGoto_pcurLat (s : State) (op : Instr) (ph : ProbePhase) (lat : Content) :
    (s.probeGoto op ph lat).pcurLat = lat := rfl
@[simp] theorem State.probeGoto_takeAt (s : State) (op : Instr) (ph : ProbePhase) (lat : Content) (q : ProbePhase) :
    (s.probeGoto op ph lat).takeAt q = (op == .taketx && decide (ph = q)) := rfl
@[simp] theorem State.probeGoto_putAt (s : State) (op : Instr) (ph : ProbePhase) (lat : Content) (q : ProbePhase) :
    (s.probeGoto op ph lat).putAt q = (isPutrx op && decide (ph = q)) := rfl
@[simp] theorem State.probeDone_takeAt (s : State) (q : ProbePhase) : s.probeDone.takeAt q = false := rfl
@[simp] theorem State.probeDone_putAt (s : State) (q : ProbePhase) : s.probeDone.putAt q = false := rfl

theorem atPhase_of_idle {s : State} (hc : s.cur = .idle) (q : CpuPhase) (hq : q ≠ .t0) : s.atPhase q = (.t0 == q) := by
  rw [State.atPhase, hc]
  cases q <;> simp at hq ⊢

theorem atPhase_of_busy {s : State} {op : Instr} {ph : CpuPhase} {lat : Content} (hc : s.cur = .busy op ph lat) (q : CpuPhase) :
    s.atPhase q = (ph == q) := by
  rw [State.atPhase, hc]

theorem phase_of_not_send {v : Variant} {op : Instr} {ph : CpuPhase} {lat : Content} (h : cpuRecordOk v op ph lat = true)
    (hop : setsTxFull op = false) : ph ≠ .t1 ∧ ph ≠ .t2 := by
  cases op with
  | recv => cases lat <;> cases ph <;> simp_all [cpuRecordOk]
  | xmit _ | xmitr => cases hop
  | _ => cases lat <;> cases h

theorem phase_of_not_recv {v : Variant} {op : Instr} {ph : CpuPhase} {lat : Content} (h : cpuRecordOk v op ph lat = true)
    (hop : op ≠ .recv) : ph ≠ .v1 ∧ ph ≠ .v2 := by
  cases op with
  | recv => exact absurd rfl hop
  | xmit _ | xmitr => cases v <;> cases lat <;> cases ph <;> simp_all [cpuRecordOk, xmitPhaseOk]
  | _ => cases lat <;> cases h

/-- A CPU operation other than `XMIT` and `XMITR` stands at no phase that fills or marks the TX slot. -/
theorem Rests.not_sending {c : Config} {i : Instr} {s : State} (h : Rests c i s) (ha : i.agent = .cpu)
    (hi : setsTxFull i = false) : s.atPhase .t1 = false ∧ s.atPhase .t2 = false := by
  cases h with
  | cpuIdle _ hc => simp [State.atPhase, hc]
  | cpuBusy _ hc hr => simpa [State.atPhase, hc] using phase_of_not_send hr hi
  | probeIdle hp _ | probeBusy hp _ _ => simp [ha] at hp

/-- A CPU operation other than `RECV` stands at no phase that has seen or latched a byte. -/
theorem Rests.not_receiving {c : Config} {i : Instr} {s : State} (h : Rests c i s) (ha : i.agent = .cpu)
    (hi : i ≠ .recv) : s.atPhase .v1 = false ∧ s.atPhase .v2 = false := by
  cases h with
  | cpuIdle _ hc => simp [State.atPhase, hc]
  | cpuBusy _ hc hr => simpa [State.atPhase, hc] using phase_of_not_recv hr hi
  | probeIdle hp _ | probeBusy hp _ _ => simp [ha] at hp

/-- A probe action other than `TAKETX` stands at no phase of it. -/
theorem Rests.not_taking {c : Config} {i : Instr} {s : State} (h : Rests c i s) (ha : i.agent = .probe) (hi : i ≠ .taketx)
    (ph : ProbePhase) : s.takeAt ph = false := by
  cases h with
  | probeIdle _ hc => simp [State.takeAt, hc]
  | probeBusy _ hc _ => simp [State.takeAt, hc, hi]
  | cpuIdle hp _ | cpuBusy hp _ _ => simp [ha] at hp

/-- A probe action other than `PUTRX` stands at no phase of it. -/
theorem Rests.not_putting {c : Config} {i : Instr} {s : State} (h : Rests c i s) (ha : i.agent = .probe)
    (hi : isPutrx i = false) (ph : ProbePhase) : s.putAt ph = false := by
  cases h with
  | probeIdle _ hc => simp [State.putAt, hc]
  | probeBusy _ hc _ => simp [State.putAt, hc, hi]
  | cpuIdle hp _ | cpuBusy hp _ _ => simp [ha] at hp

/-! ### Frames of the slots -/

theorem atPhase_congr {s t : State} (h : t.cur = s.cur) (ph : CpuPhase) : t.atPhase ph = s.atPhase ph := by
  rw [State.atPhase, State.atPhase, h]

theorem curLat_congr {s t : State} (h : t.cur = s.cur) : t.curLat = s.curLat := by
  rw [State.curLat, State.curLat, h]

theorem takeAt_congr {s t : State} (h : t.pcur = s.pcur) (ph : ProbePhase) : t.takeAt ph = s.takeAt ph := by
  rw [State.takeAt, State.takeAt, h]

theorem putAt_congr {s t : State} (h : t.pcur = s.pcur) (ph : ProbePhase) : t.putAt ph = s.putAt ph := by
  rw [State.putAt, State.putAt, h]

theorem pcurLat_congr {s t : State} (h : t.pcur = s.pcur) : t.pcurLat = s.pcurLat := by
  rw [State.pcurLat, State.pcurLat, h]

/-- A CPU operation that writes neither register of the TX slot and sends nothing leaves the slot as it was. -/
theorem exec_txSlot_of_cpu {i : Instr} {s t : State} (hr : Rests s.cfg i s) (ha : i.agent = .cpu) (hi : setsTxFull i = false)
    (h2 : mayWrite s.cfg i .r2 = false) (h3 : mayWrite s.cfg i .r3 = false)
    (hsent : sentBytes t.history = sentBytes s.history) (h : exec i s = .next t) : t.txSlot = s.txSlot := by
  obtain ⟨-, hplog, hpcur, -, hcfg, -⟩ := cpuOperationFrame i s t ha h
  obtain ⟨hs1, hs2⟩ := hr.not_sending ha hi
  obtain ⟨ht1, ht2⟩ := (exec_phase h).rests.not_sending ha hi
  have hr2 := Content.byte.inj (onlyNamedRegistersChange i s t .r2 h h2)
  have hr3 : t.regs.r3 = s.regs.r3 := onlyNamedRegistersChange i s t .r3 h h3
  simp [State.txSlot, takeAt_congr hpcur, pcurLat_congr hpcur, *]

/-- A probe action that writes neither register of the TX slot leaves the slot as it was. -/
theorem exec_txSlot_of_probe {i : Instr} {s t : State} (hr : Rests s.cfg i s) (ha : i.agent = .probe) (hi : i ≠ .taketx)
    (h2 : mayWrite s.cfg i .r2 = false) (h3 : mayWrite s.cfg i .r3 = false) (h : exec i s = .next t) : t.txSlot = s.txSlot := by
  obtain ⟨-, -, -, -, hcur, -, hcfg, -, -, -, hplog, -⟩ := probeActionFrame i s t ha h
  have hplog := hplog hi
  have hs := hr.not_taking ha hi
  have ht := (exec_phase h).rests.not_taking ha hi
  have hr2 := Content.byte.inj (onlyNamedRegistersChange i s t .r2 h h2)
  have hr3 : t.regs.r3 = s.regs.r3 := onlyNamedRegistersChange i s t .r3 h h3
  have hsent := exec_sentBytes_of_probe ha h
  simp [State.txSlot, atPhase_congr hcur, *]

/-- A CPU operation that writes neither register of the RX slot leaves the slot as it was. -/
theorem exec_rxSlot_of_cpu {i : Instr} {s t : State} (hr : Rests s.cfg i s) (ha : i.agent = .cpu) (hi : i ≠ .recv)
    (h0 : mayWrite s.cfg i .r0 = false) (h1 : mayWrite s.cfg i .r1 = false) (h : exec i s = .next t) : t.rxSlot = s.rxSlot := by
  obtain ⟨-, -, hpcur, -, -, -, -, -, -, hclog, -⟩ := cpuOperationFrame i s t ha h
  have hclog := hclog hi
  obtain ⟨hs1, hs2⟩ := hr.not_receiving ha hi
  obtain ⟨ht1, ht2⟩ := (exec_phase h).rests.not_receiving ha hi
  have hr0 := Content.byte.inj (onlyNamedRegistersChange i s t .r0 h h0)
  have hr1 : t.regs.r1 = s.regs.r1 := onlyNamedRegistersChange i s t .r1 h h1
  have hdel := exec_deliveredBytes_of_cpu ha h
  simp [State.rxSlot, putAt_congr hpcur, *]

/-- A probe action that writes neither register of the RX slot and delivers nothing leaves the slot as it was. -/
theorem exec_rxSlot_of_probe {i : Instr} {s t : State} (hr : Rests s.cfg i s) (ha : i.agent = .probe) (hi : isPutrx i = false)
    (h0 : mayWrite s.cfg i .r0 = false) (h1 : mayWrite s.cfg i .r1 = false)
    (hdel : deliveredBytes t.history = deliveredBytes s.history) (h : exec i s = .next t) : t.rxSlot = s.rxSlot := by
  obtain ⟨-, hclog, -, -, hcur, -⟩ := probeActionFrame i s t ha h
  have hs := hr.not_putting ha hi
  have ht := (exec_phase h).rests.not_putting ha hi
  have hr0 := Content.byte.inj (onlyNamedRegistersChange i s t .r0 h h0)
  have hr1 : t.regs.r1 = s.regs.r1 := onlyNamedRegistersChange i s t .r1 h h1
  simp [State.rxSlot, atPhase_congr hcur, curLat_congr hcur, *]

end Sys2Proof.Machine
end

section
/-!
SUPPORT. Proofs for the memory family: what one phase of `RECV`, `PUTRX`, `TAKETX`, `XMIT` and `XMITR` does, from a record of a run's.
-/

namespace Sys2Proof.Machine

/-- What one phase of `RECV` does (R144). -/
inductive RecvStep (s : State) : State → Prop
  | spin {v : Byte} (h1 : s.atPhase .v1 = false) (h2 : s.atPhase .v2 = false) :
      RecvStep s ((s.record .cpu .rd .r0 v).cpuGoto .recv .v0 .unwritten)
  | found {v : Byte} (h1 : s.atPhase .v1 = false) (h2 : s.atPhase .v2 = false) (hpoll : pollTest s.cfg s.regs.r0 = true) :
      RecvStep s ((s.record .cpu .rd .r0 v).cpuGoto .recv .v1 .unwritten)
  | latch {lat : Content} {v : Byte} (hc : s.cur = .busy .recv .v1 lat) (hv : s.regs.r1 = .byte v) :
      RecvStep s ((s.record .cpu .rd .r1 v).cpuGoto .recv .v2 (.byte v))
  | take {b v : Byte} (hc : s.cur = .busy .recv .v2 (.byte b)) (hv : v = clearBits fullMask s.regs.r0) :
      RecvStep s ((((s.store .r0 v).record .cpu .rmw .r0 v).setRes b).logCpu b).cpuDone

theorem recvV0_step {s t : State} (h1 : s.atPhase .v1 = false) (h2 : s.atPhase .v2 = false) (h : recvV0 s = .next t) :
    RecvStep s t := by
  obtain ⟨v, hv, h⟩ := portRead_next h
  cases hv
  split at h <;> cases h
  · exact .found h1 h2 ‹_›
  · exact .spin h1 h2

theorem recvV2_step {b : Byte} {s t : State} (hc : s.cur = .busy .recv .v2 (.byte b)) (h : recvV2 b s = .next t) :
    RecvStep s t := by
  unfold recvV2 cpuBitClear at h
  obtain ⟨v, hv, h⟩ := cpuModify_next h
  cases hv
  cases h
  exact .take hc rfl

theorem execRecv_step {s t : State} (hr : Rests s.cfg .recv s) (h : execRecv s = .next t) : RecvStep s t := by
  cases hr with
  | cpuIdle _ hc =>
    simp only [execRecv, hc] at h
    exact recvV0_step (by simp [State.atPhase, hc]) (by simp [State.atPhase, hc]) h
  | @cpuBusy ph lat _ hc hok =>
    cases lat with
    | unwritten =>
      have hph : ph = .v0 ∨ ph = .v1 := by simpa [cpuRecordOk] using hok
      rcases hph with rfl | rfl <;> simp only [execRecv, hc] at h
      · exact recvV0_step (by simp [State.atPhase, hc]) (by simp [State.atPhase, hc]) h
      · obtain ⟨v, hv, h⟩ := portRead_next h
        cases h
        exact .latch hc hv
    | byte b =>
      obtain rfl : ph = .v2 := by simpa [cpuRecordOk] using hok
      simp only [execRecv, hc] at h
      exact recvV2_step hc h
  | probeIdle ha _ | probeBusy ha _ _ => cases ha

/-- What one phase of `PUTRX` does (R176). -/
inductive PutStep (b : Byte) (s : State) : State → Prop
  | stop {v : Byte} (h1 : s.putAt .p1 = false) (h2 : s.putAt .p2 = false) : PutStep b s (s.record .probe .rd .r0 v).probeDone
  | spin {v : Byte} (h1 : s.putAt .p1 = false) (h2 : s.putAt .p2 = false) :
      PutStep b s ((s.record .probe .rd .r0 v).probeGoto (.putrx b) .p0 .unwritten)
  | ready {v : Byte} (h1 : s.putAt .p1 = false) (h2 : s.putAt .p2 = false) (hempty : fullTest s.regs.r0 = false) :
      PutStep b s ((s.record .probe .rd .r0 v).probeGoto (.putrx b) .p1 .unwritten)
  | payload (h1 : s.putAt .p1 = true) (h2 : s.putAt .p2 = false) :
      PutStep b s ((s.probeWrite .r1 b).probeGoto (.putrx b) .p2 .unwritten)
  | full (h1 : s.putAt .p1 = false) (h2 : s.putAt .p2 = true) :
      PutStep b s (s.probeWrite .r0 (enMask s.cfg ||| fullMask)).probeDone

theorem putrxP0_step {b : Byte} {s t : State} (h1 : s.putAt .p1 = false) (h2 : s.putAt .p2 = false)
    (h : putrxP0 b s = .next t) : PutStep b s t := by
  obtain ⟨v, hv, h⟩ := portRead_next h
  cases hv
  split at h
  · cases h
    exact .stop h1 h2
  · split at h <;> cases h
    · exact .spin h1 h2
    · exact .ready h1 h2 (Bool.eq_false_iff.mpr ‹_›)

theorem execPutrx_step {b : Byte} {s t : State} (hr : Rests s.cfg (.putrx b) s) (h : execPutrx b s = .next t) :
    PutStep b s t := by
  cases hr with
  | probeIdle _ hc =>
    simp only [execPutrx, hc] at h
    exact putrxP0_step (by simp [State.putAt, hc]) (by simp [State.putAt, hc]) h
  | @probeBusy ph lat _ hc _ =>
    have hat : ∀ q, s.putAt q = (ph == q) := fun q => by simp [State.putAt, hc, isPutrx]
    cases ph with
    | p0 =>
      simp only [execPutrx, hc] at h
      exact putrxP0_step (hat _) (hat _) h
    | p1 =>
      simp only [execPutrx, hc] at h
      cases h
      exact .payload (hat _) (hat _)
    | p2 =>
      simp only [execPutrx, hc] at h
      cases h
      exact .full (hat _) (hat _)
  | cpuIdle ha _ | cpuBusy ha _ _ => cases ha

/-- What one phase of `TAKETX` does (R177, R178). -/
inductive TakeStep (s : State) : State → Prop
  | stop {v : Byte} (h1 : s.takeAt .p1 = false) (h2 : s.takeAt .p2 = false) : TakeStep s (s.record .probe .rd .r2 v).probeDone
  | spin {v : Byte} (h1 : s.takeAt .p1 = false) (h2 : s.takeAt .p2 = false) :
      TakeStep s ((s.record .probe .rd .r2 v).probeGoto .taketx .p0 .unwritten)
  | found {v : Byte} (h1 : s.takeAt .p1 = false) (h2 : s.takeAt .p2 = false) (hbusy : busyTest s.cfg s.regs.r2 = true) :
      TakeStep s ((s.record .probe .rd .r2 v).probeGoto .taketx .p1 .unwritten)
  | latch {v : Byte} (h1 : s.takeAt .p1 = true) (h2 : s.takeAt .p2 = false) (hv : s.regs.r3 = .byte v) :
      TakeStep s ((s.record .probe .rd .r3 v).probeGoto .taketx .p2 (.byte v))
  | take {b : Byte} (h1 : s.takeAt .p1 = false) (h2 : s.takeAt .p2 = true) (hlat : s.pcurLat = .byte b) :
      TakeStep s (((s.probeWrite .r2 (takenValue s.cfg)).setPres b).logProbe b).probeDone

theorem taketxP0AB_step {s t : State} (hC : s.cfg.variant ≠ .C) (h1 : s.takeAt .p1 = false) (h2 : s.takeAt .p2 = false)
    (h : taketxP0AB s = .next t) : TakeStep s t := by
  obtain ⟨v, hv, h⟩ := portRead_next h
  cases hv
  split at h
  · cases h
    exact .stop h1 h2
  · split at h <;> cases h
    · exact .found h1 h2 ((busyTest_not_C hC _).trans ‹_›)
    · exact .spin h1 h2

theorem taketxP0C_step {s t : State} (hC : s.cfg.variant = .C) (h1 : s.takeAt .p1 = false) (h2 : s.takeAt .p2 = false)
    (h : taketxP0C s = .next t) : TakeStep s t := by
  obtain ⟨v, hv, h⟩ := portRead_next h
  cases hv
  split at h <;> cases h
  · exact .spin h1 h2
  · exact .found h1 h2 ((busyTest_C hC _).trans (bne_iff_ne.mpr ‹_›))

/-- `TAKETX` from P1 on, after a first phase `p0`. -/
theorem taketxAt_step {p0 : State → Out} {s t : State} (hr : Rests s.cfg .taketx s)
    (h0 : s.takeAt .p1 = false → s.takeAt .p2 = false → p0 s = .next t → TakeStep s t) (h : taketxAt p0 s = .next t) :
    TakeStep s t := by
  cases hr with
  | probeIdle _ hc =>
    simp only [taketxAt, hc] at h
    exact h0 (by simp [State.takeAt, hc]) (by simp [State.takeAt, hc]) h
  | @probeBusy ph lat _ hc hok =>
    have hat : ∀ q, s.takeAt q = (ph == q) := fun q => by simp [State.takeAt, hc]
    cases ph with
    | p0 =>
      simp only [taketxAt, hc] at h
      exact h0 (hat _) (hat _) h
    | p1 =>
      simp only [taketxAt, hc] at h
      obtain ⟨v, hv, h⟩ := portRead_next h
      cases h
      exact .latch (hat _) (hat _) hv
    | p2 =>
      cases lat with
      | unwritten => simp [probeRecordOk] at hok
      | byte b =>
        simp only [taketxAt, hc] at h
        cases h
        exact .take (hat _) (hat _) (by simp [State.pcurLat, hc])
  | cpuIdle ha _ | cpuBusy ha _ _ => cases ha

theorem execTaketx_step {s t : State} (hr : Rests s.cfg .taketx s) (h : execTaketx s = .next t) : TakeStep s t := by
  unfold execTaketx at h
  split at h
  case h_1 hv | h_2 hv => exact taketxAt_step hr (taketxP0AB_step (by simp [hv])) h
  case h_3 hC =>
    split at h
    · exact taketxAt_step hr (taketxP0C_step hC) h
    · cases h

/-- What one phase of `XMIT` or `XMITR` does (R146, R147). -/
inductive SendStep (op : Instr) (s : State) : State → Prop
  | stop {r : RegIx} {v : Byte} (h1 : s.atPhase .t1 = false) (h2 : s.atPhase .t2 = false) :
      SendStep op s (s.record .cpu .rd r v).cpuDone
  | wait {r : RegIx} {v : Byte} {ph : CpuPhase} {lat : Content} (h1 : s.atPhase .t1 = false) (h2 : s.atPhase .t2 = false)
      (hph : ph = .t0 ∨ ph = .ts) : SendStep op s ((s.record .cpu .rd r v).cpuGoto op ph lat)
  | ready {v : Byte} {lat : Content} (h1 : s.atPhase .t1 = false) (h2 : s.atPhase .t2 = false)
      (hempty : busyTest s.cfg s.regs.r2 = false) : SendStep op s ((s.record .cpu .rd .r2 v).cpuGoto op .t1 lat)
  | payload {b : Byte} {lat : Content} (h1 : s.atPhase .t1 = true) (h2 : s.atPhase .t2 = false) (hC : s.cfg.variant ≠ .C) :
      SendStep op s ((s.cpuWrite .r3 b).cpuGoto op .t2 lat)
  | message {b : Byte} (h1 : s.atPhase .t1 = true) (h2 : s.atPhase .t2 = false) (hC : s.cfg.variant = .C) :
      SendStep op s (s.cpuWrite .r3 b).cpuDone
  | mark {v : Byte} (h1 : s.atPhase .t1 = false) (h2 : s.atPhase .t2 = true) (hC : s.cfg.variant ≠ .C)
      (hv : v = setBits fullMask s.regs.r2) : SendStep op s ((s.store .r2 v).record .cpu .rmw .r2 v).cpuDone

section Xmit

/-! `hat` says that the phase performed is the one recorded, T0 where none is; `hok` that the variant has it. -/

variable {op : Instr} {lat : Content} {b : Byte} {ph : CpuPhase} {s t : State}
  (hat : ∀ q, q ≠ .t0 → s.atPhase q = (ph == q)) (hok : xmitPhaseOk s.cfg.variant ph = true)

include hat hok

theorem xmitAtAB_step (hC : s.cfg.variant ≠ .C) (h : xmitAtAB op lat b ph s = .next t) : SendStep op s t := by
  have h1 := hat .t1 nofun
  have h2 := hat .t2 nofun
  have hph : ph = .t0 ∨ ph = .t1 ∨ ph = .t2 := by
    cases hv : s.cfg.variant
    · simpa [xmitPhaseOk, hv, or_assoc] using hok
    · simpa [xmitPhaseOk, hv, or_assoc] using hok
    · exact absurd hv hC
  rcases hph with rfl | rfl | rfl
  · change xmitT0AB op lat s = _ at h
    obtain ⟨v, hv, h⟩ := portRead_next h
    cases hv
    split at h
    · cases h
      exact .stop h1 h2
    · split at h <;> cases h
      · exact .wait h1 h2 (.inl rfl)
      · exact .ready h1 h2 ((busyTest_not_C hC _).trans (Bool.eq_false_iff.mpr ‹_›))
  · cases h
    exact .payload h1 h2 hC
  · change cpuModify op .r2 (setBits fullMask) s (fun m => .next m.cpuDone) = _ at h
    obtain ⟨v, hv, h⟩ := cpuModify_next h
    cases hv
    cases h
    exact .mark h1 h2 hC rfl

theorem xmitAtC_step (hC : s.cfg.variant = .C) (h : xmitAtC op lat b ph s = .next t) : SendStep op s t := by
  have h1 := hat .t1 nofun
  have h2 := hat .t2 nofun
  have hph : ph = .t0 ∨ ph = .ts ∨ ph = .t1 := by simpa [xmitPhaseOk, hC, or_assoc] using hok
  rcases hph with rfl | rfl | rfl
  · change xmitT0C op lat s = _ at h
    obtain ⟨v, -, h⟩ := portRead_next h
    split at h <;> cases h
    · exact .stop h1 h2
    · exact .wait h1 h2 (.inr rfl)
  · change xmitTS op lat s = _ at h
    obtain ⟨v, hv, h⟩ := portRead_next h
    cases hv
    split at h <;> cases h
    · exact .ready h1 h2 (by simp [busyTest_C hC, *])
    · exact .wait h1 h2 (.inl rfl)
  · cases h
    exact .message h1 h2 hC

theorem xmitAt_step (h : xmitAt op lat b ph s = .next t) : SendStep op s t := by
  unfold xmitAt at h
  split at h
  case h_1 hv | h_2 hv => exact xmitAtAB_step hat hok (by simp [hv]) h
  case h_3 hC => exact xmitAtC_step hat hok hC h

end Xmit

theorem xmitPhaseOk_t0 (v : Variant) : xmitPhaseOk v .t0 = true := by
  cases v <;> rfl

theorem execXmit_step {b : Byte} {s t : State} (hr : Rests s.cfg (.xmit b) s) (h : execXmit b s = .next t) :
    SendStep (.xmit b) s t := by
  cases hr with
  | cpuIdle _ hc =>
    simp only [execXmit, State.xmitPhase, hc] at h
    exact xmitAt_step (atPhase_of_idle hc) (xmitPhaseOk_t0 _) h
  | @cpuBusy ph lat _ hc hok =>
    simp only [execXmit, State.xmitPhase, hc] at h
    cases lat with
    | unwritten => exact xmitAt_step (fun q _ => atPhase_of_busy hc q) hok h
    | byte _ => cases hok
  | probeIdle ha _ | probeBusy ha _ _ => cases ha

theorem execXmitr_step {s t : State} (hr : Rests s.cfg .xmitr s) (h : execXmitr s = .next t) : SendStep .xmitr s t := by
  cases hr with
  | cpuIdle _ hc =>
    simp only [execXmitr, hc] at h
    obtain ⟨_, _, h⟩ := readRes_next h
    exact xmitAt_step (atPhase_of_idle hc) (xmitPhaseOk_t0 _) h
  | @cpuBusy ph lat _ hc hok =>
    cases lat with
    | unwritten => cases hok
    | byte b =>
      simp only [execXmitr, hc] at h
      exact xmitAt_step (fun q _ => atPhase_of_busy hc q) hok h
  | probeIdle ha _ | probeBusy ha _ _ => cases ha

/-- The two operations that send through the slot (R145, R148). -/
theorem exec_sendStep {i : Instr} {s t : State} (hr : Rests s.cfg i s) (hb : breaksSlot i = false) (hi : setsTxFull i = true)
    (h : exec i s = .next t) : SendStep i s t := by
  cases i with
  | xmit b => exact execXmit_step hr h
  | xmitr => exact execXmitr_step hr h
  | lsettx => cases hb
  | _ => cases hi

end Sys2Proof.Machine
end

section
/-!
SUPPORT. Proofs for the memory family: every phase that keeps to the premise of R152 is a move of the TX slot and of the RX slot, so every
step keeps the books of both.
-/

namespace Sys2Proof.Machine

/-! ### The phases as moves of the slots -/

theorem RecvStep.move {s t : State} (h : RecvStep s t) : s.rxSlot.Move t.rxSlot := by
  cases h with
  | spin h1 h2 => exact .stay (by simp [State.rxSlot, deliveredBytes_append, h1, h2, State.putAt])
  | found h1 h2 hpoll => exact .see (fullTest_of_pollTest hpoll) (by simp [State.rxSlot, deliveredBytes_append, h2, State.putAt])
  | latch hc hv =>
    exact .latch (atPhase_of_busy hc .v1) (by simp [State.rxSlot, deliveredBytes_append, hv, State.putAt])
  | @take b v hc hv =>
    exact .take b (by simp [State.rxSlot, atPhase_of_busy hc, State.curLat, hc]) (atPhase_of_busy hc .v1)
      (by simp [State.rxSlot, deliveredBytes_append, hv, State.putAt, atPhase_of_busy hc])

theorem PutStep.move {b : Byte} {s t : State} (h : PutStep b s t) : s.rxSlot.Move t.rxSlot := by
  cases h with
  | stop h1 h2 | spin h1 h2 =>
    exact .stay (by simp [State.rxSlot, deliveredBytes_append, h1, h2, State.atPhase, State.curLat, isPutrx])
  | ready h1 h2 hempty =>
    exact .ready hempty (by simp [State.rxSlot, deliveredBytes_append, h2, State.atPhase, State.curLat, isPutrx])
  | payload h1 h2 =>
    exact .fill b h1 h2 (by simp [State.rxSlot, deliveredBytes_append, State.atPhase, State.curLat, isPutrx])
  | full h1 h2 =>
    exact .mark h2 h1 (by simp [State.rxSlot, deliveredBytes_append, h1, State.atPhase, State.curLat])

theorem TakeStep.move {s t : State} (h : TakeStep s t) : s.txSlot.Move t.txSlot := by
  cases h with
  | stop h1 h2 | spin h1 h2 => exact .stay (by simp [State.txSlot, sentBytes_append, h1, h2, State.atPhase])
  | found h1 h2 hbusy => exact .see hbusy (by simp [State.txSlot, sentBytes_append, h2, State.atPhase])
  | latch h1 h2 hv => exact .latch h1 (by simp [State.txSlot, sentBytes_append, hv, State.atPhase])
  | @take b h1 h2 hlat =>
    exact .take b (by simp [State.txSlot, h2, hlat]) h1
      (by simp [State.txSlot, sentBytes_append, h1, busyTest_takenValue, State.atPhase])

/-- In C the write of `MSG` marks the slot too, where it sets the status (R34). -/
theorem SendStep.move {op : Instr} {s t : State} (hset : s.cfg.variant = .C → s.cfg.statusSetOnCpuWrite = true)
    (h : SendStep op s t) : s.txSlot.Move t.txSlot := by
  cases h with
  | stop h1 h2 => exact .stay (by simp [State.txSlot, sentBytes_append, h1, h2, State.takeAt, State.pcurLat])
  | wait h1 h2 hph =>
    refine .stay ?_
    rcases hph with rfl | rfl <;> simp [State.txSlot, sentBytes_append, h1, h2, State.takeAt, State.pcurLat]
  | ready h1 h2 hempty => exact .ready hempty (by simp [State.txSlot, sentBytes_append, h2, State.takeAt, State.pcurLat])
  | @payload b _ h1 h2 hC =>
    exact .fill b h1 h2
      (by simp [State.txSlot, sentBytes_append, State.cpuWrite_regs, hC, State.takeAt, State.pcurLat])
  | @message b h1 h2 hC =>
    exact .fillAndMark b h1 h2 (by
      simp [State.txSlot, sentBytes_append, State.cpuWrite_regs, hC, hset hC, h2, busyTest_statusSetValue hC, State.takeAt,
        State.pcurLat])
  | mark h1 h2 hC hv =>
    exact .mark h2 h1
      (by simp [State.txSlot, sentBytes_append, hv, h1, busyTest_not_C hC, State.takeAt, State.pcurLat])

/-- `RECV` writes no payload (R144). -/
theorem RecvStep.sentBytes_eq {s t : State} (h : RecvStep s t) : sentBytes t.history = sentBytes s.history := by
  cases h <;> exact sentBytes_append_kind _ (by simp)

/-- `TAKETX` writes register 2 alone (R177, R178). -/
theorem TakeStep.deliveredBytes_eq {s t : State} (h : TakeStep s t) : deliveredBytes t.history = deliveredBytes s.history := by
  cases h <;> simp [deliveredBytes_append]

/-- An operation that observes is no transfer. -/
theorem not_transfer_of_observes {i : Instr} (hi : observes i = true) :
    setsTxFull i = false ∧ isPutrx i = false ∧ i ≠ .recv ∧ i ≠ .taketx := by
  cases i with
  | recv | taketx | putrx _ | xmit _ | xmitr | lsettx => cases hi
  | _ => exact ⟨rfl, rfl, nofun, nofun⟩

theorem exec_txSlot_of_observes {i : Instr} {s t : State} (hi : observes i = true) (hr : Rests s.cfg i s)
    (h : exec i s = .next t) : t.txSlot = s.txSlot := by
  obtain ⟨hsend, -, -, htake⟩ := not_transfer_of_observes hi
  have hw := mayWrite_of_observes hi s.cfg
  cases ha : i.agent with
  | cpu => exact exec_txSlot_of_cpu hr ha hsend (hw _) (hw _) (exec_sentBytes_of_observes hi h) h
  | probe => exact exec_txSlot_of_probe hr ha htake (hw _) (hw _) h

theorem exec_rxSlot_of_observes {i : Instr} {s t : State} (hi : observes i = true) (hr : Rests s.cfg i s)
    (h : exec i s = .next t) : t.rxSlot = s.rxSlot := by
  obtain ⟨-, hput, hrecv, -⟩ := not_transfer_of_observes hi
  have hw := mayWrite_of_observes hi s.cfg
  cases ha : i.agent with
  | cpu => exact exec_rxSlot_of_cpu hr ha hrecv (hw _) (hw _) h
  | probe => exact exec_rxSlot_of_probe hr ha hput (hw _) (hw _) (exec_deliveredBytes_of_observes hi h) h

/-- What the firmware sends leaves the RX slot alone. -/
theorem exec_rxSlot_of_send {i : Instr} {s t : State} (hi : setsTxFull i = true) (hr : Rests s.cfg i s)
    (h : exec i s = .next t) : t.rxSlot = s.rxSlot := by
  cases i with
  | xmit _ | xmitr | lsettx => exact exec_rxSlot_of_cpu hr rfl nofun rfl rfl h
  | _ => cases hi

/-- A phase of an operation that keeps to the premise of R152 is a move of the TX slot. -/
theorem exec_txSlot_move {i : Instr} {s t : State} (hset : s.cfg.variant = .C → s.cfg.statusSetOnCpuWrite = true)
    (hr : Rests s.cfg i s) (hb : breaksSlot i = false) (h : exec i s = .next t) : s.txSlot.Move t.txSlot := by
  rcases slotOps_cases hb with hi | rfl | rfl | ⟨b, rfl⟩ | hi
  · exact .stay (exec_txSlot_of_observes hi hr h)
  · exact .stay (exec_txSlot_of_cpu hr rfl rfl rfl rfl (execRecv_step hr h).sentBytes_eq h)
  · exact (execTaketx_step hr h).move
  · exact .stay (exec_txSlot_of_probe hr rfl nofun rfl rfl h)
  · exact (exec_sendStep hr hb hi h).move hset

/-- A phase of an operation that keeps to the premise of R152 is a move of the RX slot. -/
theorem exec_rxSlot_move {i : Instr} {s t : State} (hr : Rests s.cfg i s) (hb : breaksSlot i = false)
    (h : exec i s = .next t) : s.rxSlot.Move t.rxSlot := by
  rcases slotOps_cases hb with hi | rfl | rfl | ⟨b, rfl⟩ | hi
  · exact .stay (exec_rxSlot_of_observes hi hr h)
  · exact (execRecv_step hr h).move
  · exact .stay (exec_rxSlot_of_probe hr rfl rfl rfl rfl (execTaketx_step hr h).deliveredBytes_eq h)
  · exact (execPutrx_step hr h).move
  · exact .stay (exec_rxSlot_of_send hi hr h)

/-! ### The obligations of the slots -/

/-- Settles O15: every phase is a move of the TX slot, and a move keeps its books. -/
theorem txSlotNeverLosesAByte : Obligations.TxSlotNeverLosesAByte := by
  unfold Obligations.TxSlotNeverLosesAByte
  intro s t hs h
  obtain ⟨hinv, hav, hset, hok⟩ := txSlot_iff.mp hs
  refine txSlot_iff.mpr ⟨stepKeepsInv s t hinv h, step_avoids hinv hav h, ?_⟩
  refine step_keeps_avoiding (P := fun u => (u.cfg.variant = .C → u.cfg.statusSetOnCpuWrite = true) ∧ u.txSlot.Ok)
    ?_ ?_ (fun _ _ hu => hu) hinv hav ⟨hset, hok⟩ h
  · rintro i u v hr hb ⟨huset, huok⟩ hexec
    exact ⟨by rwa [exec_cfg_eq hexec], (exec_txSlot_move huset hr hb hexec).ok huok⟩
  · intro u hu
    rwa [u.takeTurn_cfg, txSlot_takeTurn]

/-- Settles O16, in the same way. -/
theorem rxSlotNeverLosesAByte : Obligations.RxSlotNeverLosesAByte := by
  unfold Obligations.RxSlotNeverLosesAByte
  intro s t hs h
  obtain ⟨hinv, hav, hok⟩ := rxSlot_iff.mp hs
  refine rxSlot_iff.mpr ⟨stepKeepsInv s t hinv h, step_avoids hinv hav h, ?_⟩
  refine step_keeps_avoiding (P := fun u => u.rxSlot.Ok) ?_ ?_ (fun _ _ hu => hu) hinv hav hok h
  · intro i u v hr hb huok hexec
    exact (exec_rxSlot_move hr hb hexec).ok huok
  · intro u hu
    rwa [rxSlot_takeTurn]

end Sys2Proof.Machine
end

section
/-!
SUPPORT. Proofs for the memory family: whose step it is, and accesses by address as accesses of the ports.
-/

namespace Sys2Proof.Machine

/-- Settles O9: the interleaving, empty or not, says both the agent and what is used up. -/
theorem stepFollowsInterleaving : Obligations.StepFollowsInterleaving := by
  unfold Obligations.StepFollowsInterleaving
  refine ⟨fun s a ts h => ?_, fun s h => ?_⟩
  · simp only [step, State.turn, State.takeTurn, h]
  · simp only [step, State.turn, State.takeTurn, h]

/-! ### The address binding -/

/-- With four distinct addresses the register at a register's address is that register (R60). -/
theorem indexAt_addrOf {c : Config} (hc : c.wf = true) (i : RegIx) : indexAt c (addrOf c i) = some i := by
  simp only [Config.wf, Bool.and_eq_true, bne_iff_ne] at hc
  obtain ⟨⟨⟨⟨⟨h01, h02⟩, h03⟩, h12⟩, h13⟩, h23⟩ := hc
  cases i with
  | r0 => simp [indexAt, addrOf]
  | r1 => simp [indexAt, addrOf, h01.symm]
  | r2 => simp [indexAt, addrOf, h02.symm, h12.symm]
  | r3 => simp [indexAt, addrOf, h03.symm, h13.symm, h23.symm]

/-- An access of one byte reaches the block where a register answers (R60, R62). -/
theorem touchesBlock_one (c : Config) (a : Nat) : touchesBlock c a 1 = (indexAt c a).isSome := by
  simp [touchesBlock]

/-- An access of one byte at a register's address reaches that register. -/
theorem busTarget_addrOf {c : Config} (hc : c.wf = true) (i : RegIx) : busTarget c (addrOf c i) 1 = .ok i := by
  simp [busTarget, touchesBlock_one, indexAt_addrOf hc]

/-- An access to the block that is not one byte wide reaches no register (R69). -/
theorem busTarget_wide {c : Config} {a n : Nat} (h : touchesBlock c a n = true) (hn : n ≠ 1) :
    busTarget c a n = .error .wideAccess := by
  simp [busTarget, h, hn]

/-- A refusal in the binding is the access's own, whichever the port. -/
theorem bus_refused {a n : Nat} {s : State} {q : Refusal} (h : busTarget s.cfg a n = .error q) (ag : Agent) (op : Instr) (v : Byte)
    (k : Byte → State → Out) : busRead ag op a n s k = .refused q ∧ busWrite ag a n v s = .refused q := by
  simp only [busRead, busWrite, h, and_self]

/-- Settles O59: the access reaches the register at the address, and the CPU port's rights refuse one read and one write in C. -/
theorem addressedAccessIsPortAccess : Obligations.AddressedAccessIsPortAccess := by
  unfold Obligations.AddressedAccessIsPortAccess
  intro s op i v k hwf
  have htarget := busTarget_addrOf hwf i
  refine ⟨by simp only [busRead, htarget], by simp only [busWrite, htarget], ?_, ?_⟩
  · simp only [busRead, htarget, cpuReadRefusal]
    split <;> rfl
  · simp only [busWrite, htarget, cpuWriteRefusal]
    split <;> rfl

/-- Settles O60: a wide access is refused in the binding, before any port's rights, and a fetch by the test of the block alone. -/
theorem wideAccessAndFetchRefused : Obligations.WideAccessAndFetchRefused := by
  unfold Obligations.WideAccessAndFetchRefused
  intro s ag op a n v k h
  refine ⟨fun hn => bus_refused (busTarget_wide h hn) ag op v k, ?_⟩
  simp [busFetch, h]

end Sys2Proof.Machine
end

section
/-!
SUPPORT. Proofs for the encoding family (30_encoding.md). What `decode` answers is said once (`decode_cases`): no row of the opcode map
has the word's code, or one row has it and decides. The obligations follow from that and from the laws of words and rows.
-/

namespace Sys2Proof

/-! ### Decoding, by the rows of the opcode map -/

/-- A row with the word's code decides what the word decodes to (R83, R84). -/
theorem decode_of_op {w : CmdWord} {k : OpRow} (hk : k ∈ opTable) (hop : k.op = (fieldsOf w).op) :
    decode w = if k.fmt.unusedZero (fieldsOf w) then .ok (k.make (RegIx.ofBits (fieldsOf w).r) (fieldsOf w).imm)
      else .error .nonzeroUnusedField := by
  simp only [decode, ← hop, opTable_find hk]

theorem decode_of_no_op {w : CmdWord} (h : ∀ k ∈ opTable, k.op ≠ (fieldsOf w).op) : decode w = .error .reservedOpcode := by
  have hnone : opTable.find? (fun k => k.op == (fieldsOf w).op) = none := by simpa [List.find?_eq_none] using h
  simp only [decode, hnone]

/-- The three answers of decoding, each with the words it is for (R83, R84). -/
theorem decode_cases (w : CmdWord) :
    ((∀ k ∈ opTable, k.op ≠ (fieldsOf w).op) ∧ decode w = .error .reservedOpcode) ∨
    ∃ k ∈ opTable, k.op = (fieldsOf w).op ∧
      (k.fmt.unusedZero (fieldsOf w) = false ∧ decode w = .error .nonzeroUnusedField ∨
       k.fmt.unusedZero (fieldsOf w) = true ∧ decode w = .ok (k.make (RegIx.ofBits (fieldsOf w).r) (fieldsOf w).imm)) := by
  by_cases h : ∀ k ∈ opTable, k.op ≠ (fieldsOf w).op
  · exact .inl ⟨h, decode_of_no_op h⟩
  · push Not at h
    obtain ⟨k, hk, hop⟩ := h
    have hd := decode_of_op hk hop
    refine .inr ⟨k, hk, hop, ?_⟩
    cases hz : k.fmt.unusedZero (fieldsOf w) with
    | false => exact .inl ⟨rfl, by simpa [hz] using hd⟩
    | true => exact .inr ⟨rfl, by simpa [hz] using hd⟩

/-- A word decodes to what the row that selects it makes of its operand fields (R83). -/
theorem decode_ok_iff_selects {w : CmdWord} {i : Instr} : decode w = .ok i ↔
    ∃ k ∈ opTable, k.selects w = true ∧ i = k.make (RegIx.ofBits (fieldsOf w).r) (fieldsOf w).imm := by
  simp only [OpRow.selects_iff]
  constructor
  · intro h
    obtain ⟨k, hk, hop, hz, hi⟩ := decode_ok h
    exact ⟨k, hk, ⟨hop, hz⟩, hi⟩
  · rintro ⟨k, hk, ⟨hop, hz⟩, rfl⟩
    simp [decode_of_op hk hop, hz]

theorem decode_reservedOpcode_iff {w : CmdWord} :
    decode w = .error .reservedOpcode ↔ ∀ k ∈ opTable, k.op ≠ (fieldsOf w).op := by
  refine ⟨fun h => ?_, decode_of_no_op⟩
  rcases decode_cases w with ⟨hno, -⟩ | ⟨k, -, -, ⟨-, hd⟩ | ⟨-, hd⟩⟩
  · exact hno
  · simp [hd] at h
  · simp [hd] at h

theorem decode_nonzeroUnusedField_iff {w : CmdWord} : decode w = .error .nonzeroUnusedField ↔
    ∃ k ∈ opTable, k.op = (fieldsOf w).op ∧ k.fmt.unusedZero (fieldsOf w) = false := by
  constructor
  · intro h
    rcases decode_cases w with ⟨-, hd⟩ | ⟨k, hk, hop, ⟨hz, -⟩ | ⟨-, hd⟩⟩
    · simp [hd] at h
    · exact ⟨k, hk, hop, hz⟩
    · simp [hd] at h
  · rintro ⟨k, hk, hop, hz⟩
    simp [decode_of_op hk hop, hz]

/-- Whose operation it is, is for an agent's list alone to ask (R84). -/
theorem decode_ne_wrongAgent (w : CmdWord) : decode w ≠ .error .wrongAgent := by
  rcases decode_cases w with ⟨-, hd⟩ | ⟨k, -, -, ⟨-, hd⟩ | ⟨-, hd⟩⟩ <;> simp [hd]

theorem decodeFor_of_error {w : CmdWord} {e : DecodeError} (h : decode w = .error e) (a : Agent) : decodeFor a w = .error e := by
  simp only [decodeFor, h]

theorem decodeFor_of_ok {w : CmdWord} {i : Instr} (h : decode w = .ok i) (a : Agent) :
    decodeFor a w = if i.agent = a then .ok i else .error .wrongAgent := by
  simp [decodeFor, h, Instr.wellFormedFor]

/-! ### Codes -/

/-- The codes no row has (R84). -/
theorem no_op_iff (c : BitVec 6) : (∀ k ∈ opTable, k.op ≠ c) ↔
    (c = 0x00 ∨ (0x05 ≤ c ∧ c ≤ 0x07) ∨ c = 0x16 ∨ c = 0x17 ∨ (0x1B ≤ c ∧ c ≤ 0x1E) ∨ (0x22 ≤ c ∧ c ≤ 0x27) ∨ 0x2F ≤ c) := by
  revert c
  decide

@[simp] theorem fieldsOf_encode (i : Instr) : fieldsOf (encode i) = i.fields :=
  fieldsOf_wordOf i.fields

/-- `op[5]` of an accepted word tells whose operation it is (R80, R84). -/
theorem agent_of_decode {w : CmdWord} {i : Instr} (h : decode w = .ok i) :
    i.agent = .probe ↔ (fieldsOf w).op.getLsbD 5 = true := by
  obtain rfl := encode_of_decode h
  rw [fieldsOf_encode, Instr.fields_op_agent, beq_iff_eq]

/-- The top bit of an operation's word tells whose operation it is (R80). -/
theorem encode_top_bit (i : Instr) : (encode i).getLsbD 15 = (i.agent == .probe) := by
  rw [← Instr.fields_op_agent]
  simp [encode, wordOf]

/-! ### The round trip -/

/-- Every operation's word is selected by a row that makes that operation (R83). -/
theorem Laws.RowPattern.statement : ∀ i : Instr, Statement i
  | .crd r => crd r
  | .cwr r imm => cwr r imm
  | .cbs r m => cbs r m
  | .cbc r m => cbc r m
  | .lenrx => lenrx
  | .lentx => lentx
  | .lfulrx => lfulrx
  | .lbsytx => lbsytx
  | .lsettx => lsettx
  | .lclrrx => lclrrx
  | .lrdrx => lrdrx
  | .lwrtx b => lwrtx b
  | .enrx => enrx
  | .entx => entx
  | .poll => poll
  | .recv => recv
  | .xmit b => xmit b
  | .xmitr => xmitr
  | .jmp t => jmp t
  | .jz t => jz t
  | .jnz t => jnz t
  | .halt => halt
  | .prd r => prd r
  | .pwr r imm => pwr r imm
  | .attrx => attrx
  | .detrx => detrx
  | .atttx => atttx
  | .dettx => dettx
  | .putrx b => putrx b
  | .taketx => taketx
  | .pclrst => pclrst

@[simp] theorem decode_encode (i : Instr) : decode (encode i) = .ok i := by
  obtain ⟨k, hk, -, hmake, hselects⟩ := Laws.RowPattern.statement i
  exact decode_ok_iff_selects.mpr ⟨k, hk, hselects, by rw [fieldsOf_encode, hmake]⟩

@[simp] theorem decodeFor_encode (i : Instr) : decodeFor i.agent (encode i) = .ok i := by
  rw [decodeFor_of_ok (decode_encode i), if_pos rfl]

/-! ### The obligations -/

/-- Settles O1: the row of the operation selects its word, and makes the operation of its fields again. -/
theorem decodeReadsEncode : Obligations.DecodeReadsEncode := by
  unfold Obligations.DecodeReadsEncode
  exact fun i => ⟨decode_encode i, decodeFor_encode i⟩

/-- Settles O2: the operation a row makes has the code and the fields of the word it was made from. -/
theorem decodedWordIsItsEncoding : Obligations.DecodedWordIsItsEncoding := by
  unfold Obligations.DecodedWordIsItsEncoding
  exact fun _ _ => encode_of_decode

/-- Settles O3: a row selects by its code and the zero fields, and no two rows have one code. -/
theorem decodeIsTheSelectingRow : Obligations.DecodeIsTheSelectingRow := by
  unfold Obligations.DecodeIsTheSelectingRow
  refine ⟨fun _ _ => decode_ok_iff_selects, opTable_codes.imp ?_⟩
  rintro k l hne w ⟨hk, hl⟩
  obtain ⟨hkop, -⟩ := (k.selects_iff w).mp hk
  obtain ⟨hlop, -⟩ := (l.selects_iff w).mp hl
  exact hne (hkop.trans hlop.symm)

/-- Settles O4: the answers of decoding by the rows, the codes without a row, and the agent by the operation's own code. -/
theorem decodeRefusals : Obligations.DecodeRefusals := by
  unfold Obligations.DecodeRefusals
  refine ⟨fun w => ?_, fun _ => decode_nonzeroUnusedField_iff, decode_ne_wrongAgent, ?_, ?_, fun _ _ => agent_of_decode⟩
  · rw [decode_reservedOpcode_iff, no_op_iff]
  · exact fun a _ _ h => decodeFor_of_error h a
  · exact fun a _ _ h => decodeFor_of_ok h a

/-- Settles O6: the expansions by definition, and each word of the byte-stream bridge from the fields of its operation. -/
theorem pseudoOperationsExpand : Obligations.PseudoOperationsExpand := by
  unfold Obligations.PseudoOperationsExpand
  intro at_ skip b
  refine ⟨rfl, rfl, rfl, rfl, ?_, rfl⟩
  simp [Pseudo.expand, encode, Instr.fields, wordOf]

end Sys2Proof

namespace Sys2Proof.Machine

/-! ### The placed word -/

/-- A whole command word placed by its number is that word (log 5). -/
theorem withFetchWord_toNat (s : State) (w : CmdWord) : s.withFetchWord 16 w.toNat = s.withWord w := by
  rw [State.withFetchWord, Nat.mod_eq_of_lt w.isLt, BitVec.ofNat_toNat, BitVec.setWidth_eq]

/-- A word of the CPU agent is placed in its program at `pc`, and the turn given to it (R80; log 5). -/
theorem withWord_of_cpu (s : State) {i : Instr} (ha : i.agent = .cpu) : s.withWord (encode i) =
    { s with prog := placeWord s.prog s.pc (encode i), cur := .idle, halted := false, turns := .cpu :: s.turns } := by
  rw [State.withWord, encode_top_bit, ha]
  rfl

/-- A word of the probe agent is placed first in its schedule, and the turn given to it (R80; log 5). -/
theorem withWord_of_probe (s : State) {i : Instr} (ha : i.agent = .probe) : s.withWord (encode i) =
    { s with psched := encode i :: s.psched, pcur := .idle, turns := .probe :: s.turns } := by
  rw [State.withWord, encode_top_bit, ha]
  rfl

/-- The CPU agent's step when it is at the start of an operation of its own (R204). -/
theorem cpuStep_of_fetch {s : State} {w : CmdWord} {i : Instr} (hh : s.halted = false) (hc : s.cur = .idle)
    (hf : s.fetch = some w) (hd : decodeFor .cpu w = .ok i) : cpuStep s = exec i s := by
  simp [cpuStep, hh, hc, hf, hd]

/-- Settles O12: the turn placed is the agent's, and the word it fetches, or takes, decodes to the operation. -/
theorem placedWordRunsNext : Obligations.PlacedWordRunsNext := by
  unfold Obligations.PlacedWordRunsNext
  intro s i
  obtain ⟨hturn, -⟩ := stepFollowsInterleaving
  obtain ⟨-, -, hruns, -⟩ := probeStepRunsDecodedWord
  rw [withFetchWord_toNat]
  refine ⟨fun ha => ?_, fun ha => ?_⟩
  · rw [withWord_of_cpu s ha, hturn _ .cpu s.turns rfl]
    exact cpuStep_of_fetch rfl rfl (placeWord_getElem s.prog s.pc (encode i)) (ha ▸ decodeFor_encode i)
  · rw [withWord_of_probe s ha, hturn _ .probe s.turns rfl]
    exact hruns _ (encode i) s.psched i rfl rfl (ha ▸ decodeFor_encode i)

end Sys2Proof.Machine
end

section
/-!
SUPPORT. Proofs for the CPU port family (40_cpu_port.md). Each operation refuses, or makes one access and is done: the refusals are
said once, and `CBS` and `CBC` are one read-modify-write with two updates.
-/

namespace Sys2Proof.Machine

/-! ### What the CPU port refuses -/

theorem cpuWriteRefusal_of_status {c : Config} {r : RegIx} (h : c.variant = .C ∧ r = .r2) :
    cpuWriteRefusal c r = some .readOnlyWrite := if_pos h

theorem cpuWriteRefusal_of_not_status {c : Config} {r : RegIx} (h : ¬ (c.variant = .C ∧ r = .r2)) :
    cpuWriteRefusal c r = none := if_neg h

theorem cpuReadRefusal_of_message {c : Config} {r : RegIx} (h : c.variant = .C ∧ r = .r3) :
    cpuReadRefusal c r = some .unmodelledRead := if_pos h

theorem cpuReadRefusal_of_not_message {c : Config} {r : RegIx} (h : ¬ (c.variant = .C ∧ r = .r3)) :
    cpuReadRefusal c r = none := if_neg h

theorem cpuModifyRefusal_of_status {c : Config} {r : RegIx} (h : c.variant = .C ∧ r = .r2) :
    cpuModifyRefusal c r = some .readOnlyWrite := by
  rw [cpuModifyRefusal, cpuWriteRefusal_of_status h]

theorem cpuModifyRefusal_of_message {c : Config} {r : RegIx} (h : c.variant = .C ∧ r = .r3) :
    cpuModifyRefusal c r = some .unmodelledRead := by
  have hw : ¬ (c.variant = .C ∧ r = .r2) := by simp [h.2]
  rw [cpuModifyRefusal, cpuWriteRefusal_of_not_status hw, cpuReadRefusal_of_message h]

theorem cpuModifyRefusal_of_neither {c : Config} {r : RegIx} (h : ¬ (c.variant = .C ∧ (r = .r2 ∨ r = .r3))) :
    cpuModifyRefusal c r = none := by
  have hw : ¬ (c.variant = .C ∧ r = .r2) := fun ⟨hC, hr⟩ => h ⟨hC, .inl hr⟩
  have hr : ¬ (c.variant = .C ∧ r = .r3) := fun ⟨hC, hr⟩ => h ⟨hC, .inr hr⟩
  rw [cpuModifyRefusal, cpuWriteRefusal_of_not_status hw, cpuReadRefusal_of_not_message hr]

@[simp] theorem refuseOr_some (q : Refusal) (k : Out) : refuseOr (some q) k = .refused q := rfl

@[simp] theorem refuseOr_none (k : Out) : refuseOr none k = k := rfl

/-! ### The accesses -/

/-- A CPU read into `res` on a register that holds a byte: the whole state it leaves. -/
theorem cpuLoad_byte {op : Instr} {r : RegIx} {s : State} {v : Byte} (h : s.regs.get r = .byte v) :
    cpuLoad op r s = .next ((s.record .cpu .rd r v).setRes v).cpuDone :=
  portRead_byte h _

theorem cpuLoad_unwritten {op : Instr} {r : RegIx} {s : State} (h : s.regs.get r = .unwritten) :
    cpuLoad op r s = .fault (.unwrittenRead (faultRecord .cpu op (some r) s)) :=
  portRead_unwritten h _

/-- A CPU write changes the registers and the history alone (R34, R68). -/
theorem State.cpuWrite_eq (s : State) (r : RegIx) (v : Byte) :
    s.cpuWrite r v =
      { s with regs := (s.cpuWrite r v).regs, history := s.history ++ [⟨.cpu, .wr, r, v⟩] } := by
  unfold State.cpuWrite State.statusEffect
  split <;> rfl

theorem exec_crd (r : RegIx) (s : State) :
    exec (.crd r) s = refuseOr (cpuReadRefusal s.cfg r) (cpuLoad (.crd r) r s) := rfl

theorem exec_cwr (r : RegIx) (v : Byte) (s : State) :
    exec (.cwr r v) s = refuseOr (cpuWriteRefusal s.cfg r) (.next (s.cpuWrite r v).cpuDone) := rfl

/-- A one-phase read-modify-write on the CPU port by the update `f` (R65): `CBS` and `CBC`, each with its own `f`. -/
def cpuUpdate (op : Instr) (r : RegIx) (f : Byte → Byte) (s : State) : Out :=
  refuseOr (cpuModifyRefusal s.cfg r) (cpuModify op r f s fun t => .next t.cpuDone)

theorem exec_cbs (r : RegIx) (m : Byte) (s : State) : exec (.cbs r m) s = cpuUpdate (.cbs r m) r (setBits m) s := rfl

theorem exec_cbc (r : RegIx) (m : Byte) (s : State) : exec (.cbc r m) s = cpuUpdate (.cbc r m) r (clearBits m) s := rfl

section CpuUpdate

variable {r : RegIx} {s : State} (op : Instr) (f : Byte → Byte)

theorem cpuUpdate_of_status (h : s.cfg.variant = .C ∧ r = .r2) : cpuUpdate op r f s = .refused .readOnlyWrite := by
  rw [cpuUpdate, cpuModifyRefusal_of_status h, refuseOr_some]

theorem cpuUpdate_of_message (h : s.cfg.variant = .C ∧ r = .r3) : cpuUpdate op r f s = .refused .unmodelledRead := by
  rw [cpuUpdate, cpuModifyRefusal_of_message h, refuseOr_some]

theorem cpuUpdate_unwritten (h : ¬ (s.cfg.variant = .C ∧ (r = .r2 ∨ r = .r3))) (hr : s.regs.get r = .unwritten) :
    cpuUpdate op r f s = .fault (.unwrittenRead (faultRecord .cpu op (some r) s)) := by
  rw [cpuUpdate, cpuModifyRefusal_of_neither h, refuseOr_none, cpuModify_unwritten hr]

/-- The read and the write are one transition, with one event of the byte left (R65). -/
theorem cpuUpdate_byte {v : Byte} (h : ¬ (s.cfg.variant = .C ∧ (r = .r2 ∨ r = .r3))) (hr : s.regs.get r = .byte v) :
    cpuUpdate op r f s = .next ((s.store r (f v)).record .cpu .rmw r (f v)).cpuDone := by
  rw [cpuUpdate, cpuModifyRefusal_of_neither h, refuseOr_none, cpuModify_byte hr]

end CpuUpdate

/-! ### The obligations -/

/-- Settles O28: the port's one refusal of a read, else the read by what the register holds. -/
theorem crdReadsRegister : Obligations.CrdReadsRegister := by
  unfold Obligations.CrdReadsRegister
  intro s r
  rw [exec_crd]
  refine ⟨by simp [encode, Instr.fields, wordOf], fun hmsg => ?_, fun hmsg hr => ?_, fun v hmsg hr => ?_⟩
  · rw [cpuReadRefusal_of_message hmsg, refuseOr_some]
  · rw [cpuReadRefusal_of_not_message hmsg, refuseOr_none, cpuLoad_unwritten hr]
    rfl
  · rw [cpuReadRefusal_of_not_message hmsg, refuseOr_none, cpuLoad_byte hr]
    rfl

/-- Settles O29: the port's one refusal of a write, else the write, whose registers carry the side effect of R34. -/
theorem cwrWritesRegister : Obligations.CwrWritesRegister := by
  unfold Obligations.CwrWritesRegister
  intro s r v
  rw [exec_cwr]
  refine ⟨by simp [encode, Instr.fields, wordOf], fun hstatus => ?_, fun hstatus => ?_⟩
  · rw [cpuWriteRefusal_of_status hstatus, refuseOr_some]
  · rw [cpuWriteRefusal_of_not_status hstatus, refuseOr_none, State.cpuWrite_eq, State.cpuWrite_regs]
    rfl

/-- Settles O30: both operations are `cpuUpdate`, by the update that sets the mask's bits and the one that clears them. -/
theorem bitOperationsModifyAtomically : Obligations.BitOperationsModifyAtomically := by
  unfold Obligations.BitOperationsModifyAtomically
  intro s r m
  rw [exec_cbs, exec_cbc]
  refine ⟨by simp [encode, Instr.fields, wordOf], by simp [encode, Instr.fields, wordOf], fun h => ?_, fun h => ?_,
    fun h hr => ?_, fun v h hr => ?_⟩
  · exact ⟨cpuUpdate_of_status _ _ h, cpuUpdate_of_status _ _ h⟩
  · exact ⟨cpuUpdate_of_message _ _ h, cpuUpdate_of_message _ _ h⟩
  · exact ⟨cpuUpdate_unwritten _ _ h hr, cpuUpdate_unwritten _ _ h hr⟩
  · exact ⟨cpuUpdate_byte _ _ h hr, cpuUpdate_byte _ _ h hr⟩

end Sys2Proof.Machine
end

section
/-!
SUPPORT. Proofs for the layout primitives family (41_layout_primitives.md). Each operation is one access of the CPU port and is done: the
tests are `cpuTest`, with the byte each leaves in `res` said once, and the rest are a read, a write or a read-modify-write.
-/

namespace Sys2Proof.Machine

theorem not_C_of_A_or_B {v : Variant} (h : v = .A ∨ v = .B) : v ≠ .C := by
  rintro rfl
  simp at h

/-! ### The byte a test leaves in `res` -/

theorem boolByte_anyBit (m v : Byte) : boolByte (anyBit m v) = if v &&& m ≠ 0 then 0x01 else 0x00 := by
  simp [boolByte, anyBit]

theorem enMask_not_C {c : Config} (hC : c.variant ≠ .C) : enMask c = 0x02 := by
  cases hv : c.variant with
  | A | B => simp [enMask, enMaskAB, hv]
  | C => exact absurd hv hC

theorem enMask_C {c : Config} (hC : c.variant = .C) : enMask c = cEnMask c := by
  simp [enMask, hC]

theorem boolByte_enTest_not_C {c : Config} (hC : c.variant ≠ .C) (v : Byte) :
    boolByte (enTest c v) = if v &&& 0x02 ≠ 0 then 0x01 else 0x00 := by
  rw [enTest, enMask_not_C hC, boolByte_anyBit]

theorem boolByte_enTest_C {c : Config} (hC : c.variant = .C) (v : Byte) :
    boolByte (enTest c v) = if v &&& cEnMask c ≠ 0 then 0x01 else 0x00 := by
  rw [enTest, enMask_C hC, boolByte_anyBit]

theorem boolByte_fullTest (v : Byte) : boolByte (fullTest v) = if v &&& 0x01 ≠ 0 then 0x01 else 0x00 :=
  boolByte_anyBit fullMask v

theorem boolByte_busyTest_not_C {c : Config} (hC : c.variant ≠ .C) (v : Byte) :
    boolByte (busyTest c v) = if v &&& 0x01 ≠ 0 then 0x01 else 0x00 := by
  rw [busyTest_not_C hC, boolByte_fullTest]

theorem boolByte_busyTest_C {c : Config} (hC : c.variant = .C) (v : Byte) :
    boolByte (busyTest c v) = if v ≠ 0 then 0x01 else 0x00 := by
  simp [busyTest_C hC, boolByte]

/-! ### The operations -/

/-- A CPU test of a register that holds a byte: the whole state it leaves. -/
theorem cpuTest_byte {op : Instr} {r : RegIx} {test : Byte → Bool} {s : State} {v : Byte} (h : s.regs.get r = .byte v) :
    cpuTest op r test s = .next ((s.record .cpu .rd r v).setRes (boolByte (test v))).cpuDone :=
  portRead_byte h _

theorem exec_rxEnableTest {i : Instr} (hi : i = .lenrx ∨ i = .enrx) (s : State) :
    exec i s = .next ((s.record .cpu .rd .r0 s.regs.r0).setRes (boolByte (enTest s.cfg s.regs.r0))).cpuDone := by
  have htest : exec i s = cpuTest i .r0 (enTest s.cfg) s := by rcases hi with rfl | rfl <;> rfl
  rw [htest, cpuTest_byte s.regs.get_r0]

theorem exec_txEnableTest {i : Instr} (hi : i = .lentx ∨ i = .entx) (s : State) :
    exec i s = cpuTest i (txEnReg s.cfg) (enTest s.cfg) s := by
  rcases hi with rfl | rfl <;> rfl

theorem exec_lfulrx (s : State) :
    exec .lfulrx s = .next ((s.record .cpu .rd .r0 s.regs.r0).setRes (boolByte (fullTest s.regs.r0))).cpuDone :=
  cpuTest_byte (op := .lfulrx) s.regs.get_r0

theorem exec_lbsytx (s : State) :
    exec .lbsytx s = .next ((s.record .cpu .rd .r2 s.regs.r2).setRes (boolByte (busyTest s.cfg s.regs.r2))).cpuDone :=
  cpuTest_byte (op := .lbsytx) s.regs.get_r2

theorem exec_lsettx_C {s : State} (hC : s.cfg.variant = .C) : exec .lsettx s = .refused .notInVariant := by
  simp [exec, execLsettx, hC]

theorem exec_lsettx_not_C {s : State} (hC : s.cfg.variant ≠ .C) :
    exec .lsettx s =
      .next ((s.store .r2 (setBits fullMask s.regs.r2)).record .cpu .rmw .r2 (setBits fullMask s.regs.r2)).cpuDone := by
  have hmod : exec .lsettx s = cpuModify .lsettx .r2 (setBits fullMask) s fun t => .next t.cpuDone := by
    cases hv : s.cfg.variant with
    | A | B => simp [exec, execLsettx, cpuBitSet, hv]
    | C => exact absurd hv hC
  rw [hmod, cpuModify_byte s.regs.get_r2]

theorem exec_lclrrx (s : State) :
    exec .lclrrx s =
      .next ((s.store .r0 (clearBits fullMask s.regs.r0)).record .cpu .rmw .r0 (clearBits fullMask s.regs.r0)).cpuDone :=
  cpuModify_byte (op := .lclrrx) (f := clearBits fullMask) s.regs.get_r0 fun t => .next t.cpuDone

theorem exec_lrdrx (s : State) : exec .lrdrx s = cpuLoad .lrdrx .r1 s := rfl

theorem exec_lwrtx (b : Byte) (s : State) : exec (.lwrtx b) s = .next (s.cpuWrite .r3 b).cpuDone := rfl

/-! ### The obligations -/

/-- Settles O31: one read of register 0, whose enable bit is `EN` in A and B and `C_EN` in C. -/
theorem rxEnableTests : Obligations.RxEnableTests := by
  unfold Obligations.RxEnableTests
  intro s i hi
  rw [exec_rxEnableTest hi]
  refine ⟨by decide, by decide, fun hAB => ?_, fun hC => ?_⟩
  · rw [boolByte_enTest_not_C (not_C_of_A_or_B hAB)]
    rfl
  · rw [boolByte_enTest_C hC]
    rfl

/-- Settles O32: one read of the register with the TX enable, `TXF` in A and B and `FLAGS` in C. -/
theorem txEnableTests : Obligations.TxEnableTests := by
  unfold Obligations.TxEnableTests
  intro s i hi
  rw [exec_txEnableTest hi]
  refine ⟨by decide, by decide, fun hAB => ?_, fun hC => ?_⟩
  · have hC := not_C_of_A_or_B hAB
    rw [txEnReg_not_C hC, cpuTest_byte s.regs.get_r2, boolByte_enTest_not_C hC]
    rfl
  · rw [txEnReg_C hC, cpuTest_byte s.regs.get_r0, boolByte_enTest_C hC]
    rfl

/-- Settles O33: `LFULRX` is the bit test in every variant, and `LBSYTX` the busy test of the variant. -/
theorem fullConditionTests : Obligations.FullConditionTests := by
  unfold Obligations.FullConditionTests
  intro s
  rw [exec_lfulrx, exec_lbsytx, boolByte_fullTest]
  refine ⟨by decide, by decide, rfl, fun hAB => ?_, fun hC => ?_⟩
  · rw [boolByte_busyTest_not_C (not_C_of_A_or_B hAB)]
    rfl
  · rw [boolByte_busyTest_C hC]
    rfl

/-- Settles O34: each is one read-modify-write of a flag register, but for the refusal of `LSETTX` in C. -/
theorem fullPrimitivesSetAndClear : Obligations.FullPrimitivesSetAndClear := by
  unfold Obligations.FullPrimitivesSetAndClear
  intro s
  refine ⟨by decide, by decide, exec_lsettx_C, fun hAB => ?_, exec_lclrrx s⟩
  exact exec_lsettx_not_C (not_C_of_A_or_B hAB)

/-- Settles O35: a read by what `RXD` holds, and a write whose registers carry the side effect of R34. -/
theorem payloadPrimitivesReadAndWrite : Obligations.PayloadPrimitivesReadAndWrite := by
  unfold Obligations.PayloadPrimitivesReadAndWrite
  intro s b
  rw [exec_lrdrx, exec_lwrtx]
  refine ⟨by decide, by simp [encode, Instr.fields, wordOf], fun hr => ?_, fun v hr => ?_, ?_⟩
  · rw [cpuLoad_unwritten (s.regs.get_r1.trans hr)]
    rfl
  · rw [cpuLoad_byte (s.regs.get_r1.trans hr)]
    rfl
  · rw [State.cpuWrite_eq, State.cpuWrite_regs]
    simp only [true_and]
    rfl

end Sys2Proof.Machine
end

section
/-!
SUPPORT. Proofs for the channel operations family (42_channel_ops.md): the poll test, and one equation for `POLL` and for each phase of
`RECV`, which the obligations and the runs that spin in V0 then use.
-/

namespace Sys2Proof.Machine

/-! ### The poll test -/

theorem pollTest_not_B {c : Config} (hB : c.variant ≠ .B) (v : Byte) : pollTest c v = fullTest v := by
  cases hv : c.variant with
  | A | C => simp [pollTest, hv]
  | B => exact absurd hv hB

theorem pollTest_B {c : Config} (hB : c.variant = .B) (v : Byte) : pollTest c v = (v == 0x03) := by
  simp [pollTest, hB, enMaskAB, fullMask]

/-- What makes `POLL` true in B includes the enable (R142). -/
theorem enTest_of_pollTest_B {c : Config} (hB : c.variant = .B) {v : Byte} (h : pollTest c v = true) : enTest c v = true := by
  rw [pollTest_B hB, beq_iff_eq] at h
  rw [h, enTest, enMask_not_C (by simp [hB])]
  decide

theorem exec_poll (s : State) :
    exec .poll s = .next ((s.record .cpu .rd .r0 s.regs.r0).setRes (boolByte (pollTest s.cfg s.regs.r0))).cpuDone :=
  cpuTest_byte (op := .poll) s.regs.get_r0

/-- Settles O36: one read of register 0, tested by the full bit in A and C and by equality in B. -/
theorem pollTestsByVariant : Obligations.PollTestsByVariant := by
  unfold Obligations.PollTestsByVariant
  intro s
  rw [exec_poll]
  refine ⟨by decide, fun hAC => ?_, fun hB => ?_⟩
  · have hB : s.cfg.variant ≠ .B := by rcases hAC with h | h <;> simp [h]
    rw [pollTest_not_B hB, boolByte_fullTest]
    rfl
  · have hbyte : boolByte (s.regs.r0 == 0x03) = if s.regs.r0 = 0x03 then 0x01 else 0x00 := by simp [boolByte]
    rw [pollTest_B hB, hbyte]
    rfl

/-- Settles O37: a true poll test includes the enable in B, and the full bit everywhere. -/
theorem pollFalseWhileDisabled : Obligations.PollFalseWhileDisabled := by
  unfold Obligations.PollFalseWhileDisabled
  intro s hs hen
  have hpoll : pollTest s.cfg s.regs.r0 = false := by
    refine Bool.eq_false_iff.mpr fun h => Bool.eq_false_iff.mp hen ?_
    rcases hs with hB | hfull
    · exact enTest_of_pollTest_B hB h
    · exact hfull (fullTest_of_pollTest h)
  rw [exec_poll, hpoll]
  rfl

/-! ### The phases of `RECV` -/

/-- `RECV` polls at V0, its first phase. -/
theorem exec_recv_v0 {s : State} (hc : s.cur = .idle ∨ ∃ lat, s.cur = .busy .recv .v0 lat) :
    exec .recv s = .next ((s.record .cpu .rd .r0 s.regs.r0).cpuGoto .recv
      (if pollTest s.cfg s.regs.r0 then .v1 else .v0) .unwritten) := by
  have hv0 : exec .recv s = recvV0 s := by
    rcases hc with h | ⟨lat, h⟩ <;> simp only [exec, execRecv, h]
  rw [hv0, recvV0, portRead_byte s.regs.get_r0]
  split <;> rfl

theorem exec_recv_v1 {s : State} {lat : Content} (hc : s.cur = .busy .recv .v1 lat) : exec .recv s = recvV1 s := by
  simp only [exec, execRecv, hc]

theorem exec_recv_v1_byte {s : State} {lat : Content} {v : Byte} (hc : s.cur = .busy .recv .v1 lat) (hr : s.regs.r1 = .byte v) :
    exec .recv s = .next ((s.record .cpu .rd .r1 v).cpuGoto .recv .v2 (.byte v)) := by
  rw [exec_recv_v1 hc, recvV1, portRead_byte (s.regs.get_r1.trans hr)]

theorem exec_recv_v1_unwritten {s : State} {lat : Content} (hc : s.cur = .busy .recv .v1 lat) (hr : s.regs.r1 = .unwritten) :
    exec .recv s = .fault (.unwrittenRead (faultRecord .cpu .recv (some .r1) s)) := by
  rw [exec_recv_v1 hc, recvV1, portRead_unwritten (s.regs.get_r1.trans hr)]

theorem exec_recv_v2 {s : State} {v : Byte} (hc : s.cur = .busy .recv .v2 (.byte v)) :
    exec .recv s = .next ((((s.store .r0 (clearBits fullMask s.regs.r0)).record .cpu .rmw .r0
      (clearBits fullMask s.regs.r0)).setRes v).logCpu v).cpuDone := by
  simp only [exec, execRecv, hc, recvV2, cpuBitClear, cpuModify_byte s.regs.get_r0]

/-- Settles O38: one equation for each phase, and the fault of V1. -/
theorem recvPhases : Obligations.RecvPhases := by
  unfold Obligations.RecvPhases
  intro s
  refine ⟨by decide, exec_recv_v0, fun lat hc hr => ?_, fun lat v hc hr => exec_recv_v1_byte hc hr, fun v hc => exec_recv_v2 hc⟩
  rw [exec_recv_v1_unwritten hc hr]
  rfl

/-- A phase that answers a next state is followed by the other phases from there. -/
theorem phases_succ {i : Instr} {s t : State} (h : exec i s = .next t) (n : Nat) : phases (n + 1) i s = phases n i t := by
  rw [phases, h]

theorem phases_three {i : Instr} {s t u v : State} (h1 : exec i s = .next t) (h2 : exec i t = .next u) (h3 : exec i u = .next v) :
    phases 3 i s = .next v := by
  rw [phases_succ h1, phases_succ h2, phases_succ h3, phases]

/-- Settles O39: V0 finds the byte, V1 latches it, V2 consumes it. -/
theorem recvConsumesOnce : Obligations.RecvConsumesOnce := by
  unfold Obligations.RecvConsumesOnce
  intro s v hc hpoll hr
  have hv0 := exec_recv_v0 (.inl hc)
  rw [if_pos hpoll] at hv0
  rw [phases_three hv0 (exec_recv_v1_byte rfl hr) (exec_recv_v2 rfl)]
  simp [State.record, State.cpuGoto, State.store, State.setRes, State.logCpu, State.cpuDone, clearBits, fullMask, hc]

/-- Settles O41: `POLL` and V0 apply one test to register 0, which `POLL` leaves as it was. -/
theorem pollAgreesWithRecv : Obligations.PollAgreesWithRecv := by
  unfold Obligations.PollAgreesWithRecv
  refine ⟨fun s t u ht hcfg hregs hc => ?_, fun c hB => ?_, fun c hA => ?_⟩
  · rw [exec_poll] at ht
    cases ht
    have hu := exec_recv_v0 hc
    rw [hcfg, hregs] at hu
    cases hp : pollTest s.cfg s.regs.r0 <;> simp [hp, hu, boolByte]
  · simp [pollTest_B hB]
  · have hB : c.variant ≠ .B := by simp [hA]
    rw [pollTest_not_B hB, pollTest_not_B hB]
    decide

/-! ### Runs that spin -/

/-- What holds at one state of a run, and what every step keeps where `Q` holds, and every feed too, holds while `Q` does. -/
theorem isRunOf_keeps_while {f : Nat → Feed} {r : Nat → State} {n : Nat} {P Q : State → Prop} (hr : IsRunOf f r) (h0 : P (r n))
    (hQ : ∀ m, n ≤ m → Q (r m)) (hstep : ∀ s t, P s → Q s → step s = .next t → P t) (hfeed : ∀ s g, P s → P (s.feed g)) :
    ∀ m, n ≤ m → P (r m) := by
  intro m hm
  induction m, hm using Nat.le_induction with
  | base => exact h0
  | succ m hm ih =>
    obtain ⟨t, ht, h⟩ := hr m
    rw [h]
    exact hfeed _ _ (hstep _ _ ih (hQ m hm) ht)

theorem spinsForever_and_hangs {r : Nat → State} {n : Nat} (hr : IsRun r) (h : ∀ m, n ≤ m → (r m).spinning = true) :
    SpinsForever r ∧ (CpuFair r → Hangs r) :=
  ⟨⟨hr, n, h⟩, fun hfair => ⟨hfair, hr, n, h⟩⟩

theorem halted_of_busy {s : State} {op : Instr} {ph : CpuPhase} {lat : Content} (hs : s.Inv) (hc : s.cur = .busy op ph lat) :
    s.halted = false := by
  obtain ⟨-, -, hcur, -⟩ := hs
  simp only [State.curOk, hc, Bool.and_eq_true, Bool.not_eq_true'] at hcur
  obtain ⟨⟨hh, -⟩, -⟩ := hcur
  exact hh

theorem cpuStep_of_busy {s : State} {op : Instr} {ph : CpuPhase} {lat : Content} (hh : s.halted = false)
    (hc : s.cur = .busy op ph lat) : cpuStep s = exec op s := by
  simp [cpuStep, hh, hc]

/-- The probe agent's step leaves the CPU agent where it was, in a state of a run (R22, R66). -/
theorem probeStep_cpu_frame {s t : State} (hs : s.Inv) (h : probeStep s = .next t) :
    t.cur = s.cur ∧ t.pc = s.pc ∧ t.halted = s.halted ∧ t.clog = s.clog ∧ t.prog = s.prog := by
  rcases probeStep_next h with ⟨-, -, rfl⟩ | ⟨op, ph, lat, hc, h⟩ | ⟨w, ws, i, -, -, hd, h⟩
  · exact ⟨rfl, rfl, rfl, rfl, rfl⟩
  · obtain ⟨-, -, -, hpcur⟩ := hs
    rw [State.pcurOk, hc] at hpcur
    obtain ⟨-, hclog, hpc, hhalted, hcur, -, -, hprog, -⟩ := probeActionFrame op s t (agent_of_probeRecordOk hpcur) h
    exact ⟨hcur, hpc, hhalted, hclog, hprog⟩
  · obtain ⟨-, hclog, hpc, hhalted, hcur, -, -, hprog, -⟩ := probeActionFrame i _ t (decodeFor_ok hd).2 h
    exact ⟨hcur, hpc, hhalted, hclog, hprog⟩

/-- A step while `RECV` is at V0 and the poll test is false: it stays there, and polls afresh where the turn is its own (R144). -/
theorem step_recv_v0 {s t : State} (hs : s.Inv) (hc : s.cur = .busy .recv .v0 .unwritten)
    (hpoll : pollTest s.cfg s.regs.r0 = false) (h : step s = .next t) :
    t.cur = .busy .recv .v0 .unwritten ∧ t.clog = s.clog ∧
      (s.turn = .cpu → t.history = s.history ++ [⟨.cpu, .rd, .r0, s.regs.r0⟩]) := by
  have hs' := inv_takeTurn hs
  have hc' := s.takeTurn_cur.trans hc
  rcases step_next h with ⟨-, h⟩ | ⟨hturn, h⟩
  · rw [cpuStep_of_busy (halted_of_busy hs' hc') hc', exec_recv_v0 (.inr ⟨_, hc'⟩)] at h
    cases h
    simp [hpoll]
  · obtain ⟨hcur, -, -, hclog, -⟩ := probeStep_cpu_frame hs' h
    exact ⟨hcur.trans hc', hclog.trans s.takeTurn_clog, by simp [hturn]⟩

theorem atSelfJump_iff {s : State} : s.atSelfJump = true ↔
    s.halted = false ∧ s.cur = .idle ∧ s.pc < 256 ∧ s.fetch = some (encode (.jmp (BitVec.ofNat 8 s.pc))) := by
  simp [State.atSelfJump, and_assoc]

/-- A step while the CPU agent is at a jump to its own index: it stays there, and makes no access where the turn is its own (R200). -/
theorem step_atSelfJump {s t : State} (hs : s.Inv) (hj : s.atSelfJump = true) (h : step s = .next t) :
    t.atSelfJump = true ∧ t.pc = s.pc ∧ (s.turn = .cpu → t.history = s.history ∧ t.regs = s.regs) := by
  obtain ⟨hh, hc, hlt, hf⟩ := atSelfJump_iff.mp hj
  have hprog := (configAndProgramAreFixed s t h).2
  have hstays : t.halted = false → t.cur = .idle → t.pc = s.pc → t.atSelfJump = true := fun hh' hc' hpc => by
    rw [atSelfJump_iff, hpc, State.fetch, hprog, hpc]
    exact ⟨hh', hc', hlt, hf⟩
  rcases step_next h with ⟨-, h⟩ | ⟨hturn, h⟩
  · have hf' : s.takeTurn.fetch = some (encode (.jmp (BitVec.ofNat 8 s.pc))) := by simpa [State.fetch] using hf
    rw [cpuStep_of_fetch (s.takeTurn_halted.trans hh) (s.takeTurn_cur.trans hc) hf' (decodeFor_encode (.jmp _))] at h
    cases h
    have hpc : jumpTarget (BitVec.ofNat 8 s.pc) = s.pc := by simp [jumpTarget, Nat.mod_eq_of_lt hlt]
    exact ⟨hstays (s.takeTurn_halted.trans hh) rfl hpc, hpc, fun _ => ⟨s.takeTurn_history, s.takeTurn_regs⟩⟩
  · obtain ⟨hcur, hpc, hhalted, -, -⟩ := probeStep_cpu_frame (inv_takeTurn hs) h
    rw [s.takeTurn_cur, hc] at hcur
    rw [s.takeTurn_pc] at hpc
    rw [s.takeTurn_halted, hh] at hhalted
    exact ⟨hstays hhalted hcur hpc, hpc, by simp [hturn]⟩

/-- `RECV` at V0 stays there on a run that never makes the poll test true, and receives nothing (R143). -/
theorem isRunOf_recv_v0 {f : Nat → Feed} {r : Nat → State} {n : Nat} (hr : IsRunOf f r) (hinv : (r n).Inv)
    (hc : (r n).cur = .busy .recv .v0 .unwritten) (hpoll : ∀ m, n ≤ m → pollTest (r m).cfg (r m).regs.r0 = false) :
    ∀ m, n ≤ m → (r m).Inv ∧ (r m).cur = .busy .recv .v0 .unwritten ∧ (r m).clog = (r n).clog := by
  refine isRunOf_keeps_while (P := fun u => u.Inv ∧ u.cur = .busy .recv .v0 .unwritten ∧ u.clog = (r n).clog)
    (Q := fun u => pollTest u.cfg u.regs.r0 = false) hr ⟨hinv, hc, rfl⟩ hpoll ?_ fun _ _ hu => hu
  rintro s t ⟨hs, hcur, hclog⟩ hp h
  obtain ⟨hcur', hclog', -⟩ := step_recv_v0 hs hcur hp h
  exact ⟨stepKeepsInv s t hs h, hcur', hclog'.trans hclog⟩

/-- A jump to its own index stays where it is on every run (R200). -/
theorem isRunOf_atSelfJump {f : Nat → Feed} {r : Nat → State} {n : Nat} (hr : IsRunOf f r) (hinv : (r n).Inv)
    (hj : (r n).atSelfJump = true) : ∀ m, n ≤ m → (r m).Inv ∧ (r m).atSelfJump = true ∧ (r m).pc = (r n).pc := by
  refine isRunOf_keeps (P := fun u => u.Inv ∧ u.atSelfJump = true ∧ u.pc = (r n).pc) hr ⟨hinv, hj, rfl⟩ ?_ fun _ _ hu => hu
  rintro s t ⟨hs, hsj, hpc⟩ h
  obtain ⟨htj, hpc', -⟩ := step_atSelfJump hs hsj h
  exact ⟨stepKeepsInv s t hs h, htj, hpc'.trans hpc⟩

/-- Settles O40: `RECV` at V0 while the poll test is false, and the jump to its own index, are each kept along the run, and each turn of
the CPU agent does what the step says. -/
theorem recvSpinsWithoutDelivery : Obligations.RecvSpinsWithoutDelivery := by
  unfold Obligations.RecvSpinsWithoutDelivery
  rintro r n ⟨f, hr⟩ hinv
  refine ⟨fun hc hpoll => ?_, fun hj => ?_⟩
  · have hv0 := isRunOf_recv_v0 hr hinv hc hpoll
    have hspinning : ∀ m, n ≤ m → (r m).spinning = true := fun m hm => by
      obtain ⟨-, hcur, -⟩ := hv0 m hm
      simp [State.spinning, State.atPhase, hcur]
    obtain ⟨hspins, hhangs⟩ := spinsForever_and_hangs ⟨f, hr⟩ hspinning
    refine ⟨hspins, hhangs, fun m hm => ?_⟩
    obtain ⟨hs, hcur, hclog⟩ := hv0 m hm
    obtain ⟨t, ht, h⟩ := hr m
    obtain ⟨-, -, hhistory⟩ := step_recv_v0 hs hcur (hpoll m hm) ht
    exact ⟨hcur, hclog, fun hturn => by rw [h, State.feed_history, hhistory hturn]⟩
  · have hjumps := isRunOf_atSelfJump hr hinv hj
    have hspinning : ∀ m, n ≤ m → (r m).spinning = true := fun m hm => by
      obtain ⟨-, hsj, -⟩ := hjumps m hm
      simp [State.spinning, hsj]
    obtain ⟨hspins, hhangs⟩ := spinsForever_and_hangs ⟨f, hr⟩ hspinning
    refine ⟨hspins, hhangs, fun m hm => ?_⟩
    obtain ⟨hs, hsj, hpc⟩ := hjumps m hm
    obtain ⟨t, ht, h⟩ := hr m
    obtain ⟨-, -, hquiet⟩ := step_atSelfJump hs hsj ht
    exact ⟨hsj, hpc, fun hturn => by rw [h, State.feed_history, State.feed_regs]; exact hquiet hturn⟩

end Sys2Proof.Machine
end

section
/-!
SUPPORT. Proofs for the channel operations family: `XMIT` and `XMITR` are one sending operation, with the byte and the latch of each
(`Sends`). Each of its phases has one equation, from which the obligations of both operations follow.
-/

namespace Sys2Proof.Machine

/-! ### The sending operation -/

/-- Operation `i` sends the byte `b`, keeps `lat` latched, and performs phase `ph` next (R145, R148). -/
inductive Sends (b : Byte) (s : State) : Instr → Content → CpuPhase → Prop
  | xmitStart (hc : s.cur = .idle) : Sends b s (.xmit b) .unwritten .t0
  | xmit {ph : CpuPhase} {lat : Content} (hc : s.cur = .busy (.xmit b) ph lat) : Sends b s (.xmit b) .unwritten ph
  | xmitrStart (hc : s.cur = .idle) (hres : s.res = .byte b) : Sends b s .xmitr (.byte b) .t0
  | xmitr {ph : CpuPhase} (hc : s.cur = .busy .xmitr ph (.byte b)) : Sends b s .xmitr (.byte b) ph

theorem sends_xmit_t0 {b : Byte} {s : State} (hc : s.cur = .idle ∨ ∃ lat, s.cur = .busy (.xmit b) .t0 lat) :
    Sends b s (.xmit b) .unwritten .t0 := by
  rcases hc with hc | ⟨_, hc⟩
  · exact .xmitStart hc
  · exact .xmit hc

theorem sends_xmitr_t0 {b : Byte} {s : State} (hc : (s.cur = .idle ∧ s.res = .byte b) ∨ s.cur = .busy .xmitr .t0 (.byte b)) :
    Sends b s .xmitr (.byte b) .t0 := by
  rcases hc with ⟨hc, hres⟩ | hc
  · exact .xmitrStart hc hres
  · exact .xmitr hc

section Phases

variable {b : Byte} {s : State} {i : Instr} {lat : Content} {ph : CpuPhase}

theorem Sends.exec_eq (h : Sends b s i lat ph) : exec i s = xmitAt i lat b ph s := by
  cases h with
  | xmitStart hc | xmit hc => simp only [exec, execXmit, State.xmitPhase, hc]
  | xmitrStart hc hres => simp only [exec, execXmitr, hc, readRes_byte hres]
  | xmitr hc => simp only [exec, execXmitr, hc]

/-- The operation goes on at the phase it is sent to, with its byte and its latch. -/
theorem Sends.goto (h : Sends b s i lat ph) (t : State) (q : CpuPhase) : Sends b (t.cpuGoto i q lat) i lat q := by
  cases h with
  | xmitStart _ | xmit _ => exact .xmit rfl
  | xmitrStart _ _ | xmitr _ => exact .xmitr rfl

theorem xmitAt_not_C (hC : s.cfg.variant ≠ .C) : xmitAt i lat b ph s = xmitAtAB i lat b ph s := by
  cases hv : s.cfg.variant with
  | A | B => simp only [xmitAt, hv]
  | C => exact absurd hv hC

theorem xmitAt_C (hC : s.cfg.variant = .C) : xmitAt i lat b ph s = xmitAtC i lat b ph s := by
  simp only [xmitAt, hC]

/-- T0 in A and B: one read of `TXF` serves both tests, enable first (R146). -/
theorem Sends.exec_t0_not_C (h : Sends b s i lat .t0) (hC : s.cfg.variant ≠ .C) :
    exec i s = .next (if enTest s.cfg s.regs.r2 = false then (s.record .cpu .rd .r2 s.regs.r2).cpuDone
      else (s.record .cpu .rd .r2 s.regs.r2).cpuGoto i (if fullTest s.regs.r2 then .t0 else .t1) lat) := by
  rw [h.exec_eq, xmitAt_not_C hC]
  change xmitT0AB i lat s = _
  rw [xmitT0AB, portRead_byte s.regs.get_r2]
  cases fullTest s.regs.r2 <;> rfl

/-- T0 in C: the enable is read from `FLAGS` (R147). -/
theorem Sends.exec_t0_C (h : Sends b s i lat .t0) (hC : s.cfg.variant = .C) :
    exec i s = .next (if enTest s.cfg s.regs.r0 = false then (s.record .cpu .rd .r0 s.regs.r0).cpuDone
      else (s.record .cpu .rd .r0 s.regs.r0).cpuGoto i .ts lat) := by
  rw [h.exec_eq, xmitAt_C hC]
  change xmitT0C i lat s = _
  rw [xmitT0C, portRead_byte s.regs.get_r0]

theorem Sends.exec_ts (h : Sends b s i lat .ts) (hC : s.cfg.variant = .C) :
    exec i s = .next ((s.record .cpu .rd .r2 s.regs.r2).cpuGoto i (if s.regs.r2 ≠ 0 then .t0 else .t1) lat) := by
  rw [h.exec_eq, xmitAt_C hC, xmitAtC, xmitTS, portRead_byte s.regs.get_r2, ite_not]
  split <;> rfl

theorem Sends.exec_t1_not_C (h : Sends b s i lat .t1) (hC : s.cfg.variant ≠ .C) :
    exec i s = .next (((s.store .r3 b).record .cpu .wr .r3 b).cpuGoto i .t2 lat) := by
  rw [h.exec_eq, xmitAt_not_C hC, xmitAtAB, xmitT1AB, State.cpuWrite, State.statusEffect_not_C]
  exact hC

theorem Sends.exec_t1_C (h : Sends b s i lat .t1) (hC : s.cfg.variant = .C) :
    exec i s = .next (s.cpuWrite .r3 b).cpuDone := by
  rw [h.exec_eq, xmitAt_C hC, xmitAtC, xmitT1C]

theorem Sends.exec_t2 (h : Sends b s i lat .t2) (hC : s.cfg.variant ≠ .C) :
    exec i s = .next ((s.store .r2 (setBits fullMask s.regs.r2)).record .cpu .rmw .r2 (setBits fullMask s.regs.r2)).cpuDone := by
  rw [h.exec_eq, xmitAt_not_C hC, xmitAtAB, xmitT2, cpuBitSet, cpuModify_byte s.regs.get_r2]

/-- T0 on a disabled channel ends the operation with its one read, in every variant (R149). -/
theorem Sends.exec_t0_disabled (h : Sends b s i lat .t0) (hen : chanEn s.cfg s.regs .tx = false) :
    ∃ r v, exec i s = .next (s.record .cpu .rd r v).cpuDone := by
  by_cases hC : s.cfg.variant = .C
  · rw [chanEn_C hC] at hen
    exact ⟨.r0, _, (h.exec_t0_C hC).trans (by rw [if_pos hen])⟩
  · rw [chanEn_tx_not_C hC] at hen
    exact ⟨.r2, _, (h.exec_t0_not_C hC).trans (by rw [if_pos hen])⟩

end Phases

/-! ### The tests and writes as the spec gives them -/

theorem enTest_eq_false_iff {c : Config} {v : Byte} : enTest c v = false ↔ v &&& enMask c = 0 := by
  simp [enTest, anyBit]

theorem fullTest_iff {v : Byte} : fullTest v = true ↔ v &&& 0x01 ≠ 0 := by
  simp [fullTest, anyBit, fullMask]

theorem encode_xmit (b : Byte) : encode (.xmit b) = 0x5000 ||| b.setWidth 16 := by
  simp [encode, Instr.fields, wordOf]

/-- A CPU write of `MSG` in C, with the side effect of R34. -/
theorem State.cpuWrite_r3_C {s : State} (hC : s.cfg.variant = .C) (b : Byte) :
    s.cpuWrite .r3 b =
      { s with
        regs :=
          if s.cfg.statusSetOnCpuWrite = true then { s.regs with r3 := .byte b, r2 := 0x01 }
          else { s.regs with r3 := .byte b }
        history := s.history ++ [⟨.cpu, .wr, .r3, b⟩] } := by
  rw [State.cpuWrite_eq, State.cpuWrite_regs]
  simp only [hC, true_and]
  rfl

/-! ### The obligations -/

/-- Settles O42: the phases of the sending operation in A and B, for `XMIT`. -/
theorem xmitPhasesAB : Obligations.XmitPhasesAB := by
  unfold Obligations.XmitPhasesAB
  intro s b hAB
  have hC := not_C_of_A_or_B hAB
  refine ⟨encode_xmit b, fun hc => ?_, fun lat hc => (Sends.xmit hc).exec_t1_not_C hC, fun lat hc => (Sends.xmit hc).exec_t2 hC⟩
  rw [(sends_xmit_t0 hc).exec_t0_not_C hC]
  simp only [enTest_eq_false_iff, enMask_not_C hC, fullTest_iff]
  split_ifs <;> rfl

/-- Settles O43: the phases of the sending operation in C, for `XMIT`. -/
theorem xmitPhasesC : Obligations.XmitPhasesC := by
  unfold Obligations.XmitPhasesC
  intro s b hC
  refine ⟨encode_xmit b, fun hc => ?_, fun lat hc => (Sends.xmit hc).exec_ts hC, fun lat hc => ?_⟩
  · rw [(sends_xmit_t0 hc).exec_t0_C hC]
    simp only [enTest_eq_false_iff, enMask_C hC]
    split_ifs <;> rfl
  · rw [(Sends.xmit hc).exec_t1_C hC, State.cpuWrite_r3_C hC]
    rfl

/-- Settles O45: the phases of the sending operation, for `XMITR` and the byte it has latched. -/
theorem xmitrSendsLatchedRes : Obligations.XmitrSendsLatchedRes := by
  unfold Obligations.XmitrSendsLatchedRes
  intro s
  refine ⟨by decide, fun hc hres => ?_, fun b hc => ⟨fun hAB => ?_, fun hC => ?_⟩, fun b hc hC => (Sends.xmitr hc).exec_ts hC,
    fun b hc => ⟨fun hAB => (Sends.xmitr hc).exec_t1_not_C (not_C_of_A_or_B hAB), fun hC => ?_⟩,
    fun b hc hAB => (Sends.xmitr hc).exec_t2 (not_C_of_A_or_B hAB)⟩
  · simp only [exec, execXmitr, hc, readRes, hres]
    rfl
  · have hC := not_C_of_A_or_B hAB
    rw [(sends_xmitr_t0 hc).exec_t0_not_C hC]
    simp only [enTest_eq_false_iff, enMask_not_C hC, fullTest_iff]
    split_ifs <;> rfl
  · rw [(sends_xmitr_t0 hc).exec_t0_C hC]
    simp only [enTest_eq_false_iff, enMask_C hC]
    split_ifs <;> rfl
  · rw [(Sends.xmitr hc).exec_t1_C hC, State.cpuWrite_r3_C hC]
    rfl

/-- Settles O46: T0 tests the enable before anything else. -/
theorem xmitDroppedWhileDisabled : Obligations.XmitDroppedWhileDisabled := by
  unfold Obligations.XmitDroppedWhileDisabled
  intro s b hc hen
  exact (sends_xmit_t0 hc).exec_t0_disabled hen

/-- A free, enabled slot in A and B takes the byte in three phases (R146). -/
theorem Sends.phases_free_not_C {b : Byte} {s : State} {i : Instr} {lat : Content} (h : Sends b s i lat .t0)
    (hC : s.cfg.variant ≠ .C) (hen : enTest s.cfg s.regs.r2 = true) (hfull : fullTest s.regs.r2 = false) :
    phases 3 i s = .next
      { s with
        regs := { s.regs with r3 := .byte b, r2 := s.regs.r2 ||| 0x01 }, cur := .idle, pc := s.pc + 1
        history := s.history ++
          [⟨.cpu, .rd, .r2, s.regs.r2⟩, ⟨.cpu, .wr, .r3, b⟩, ⟨.cpu, .rmw, .r2, s.regs.r2 ||| 0x01⟩] } := by
  have ht0 := h.exec_t0_not_C hC
  simp only [hen, hfull, Bool.true_eq_false, Bool.false_eq_true, if_false] at ht0
  rw [phases_three ht0 ((h.goto _ _).exec_t1_not_C hC) ((h.goto _ _).exec_t2 hC)]
  simp [State.record, State.store, State.cpuGoto, State.cpuDone, setBits, fullMask]

/-- A free, enabled slot in C takes the byte, with its status, in three phases (R147). -/
theorem Sends.phases_free_C {b : Byte} {s : State} {i : Instr} {lat : Content} (h : Sends b s i lat .t0)
    (hC : s.cfg.variant = .C) (hset : s.cfg.statusSetOnCpuWrite = true) (hen : enTest s.cfg s.regs.r0 = true)
    (hfree : s.regs.r2 = 0x00) :
    phases 3 i s = .next
      { s with
        regs := { s.regs with r3 := .byte b, r2 := 0x01 }, cur := .idle, pc := s.pc + 1
        history := s.history ++ [⟨.cpu, .rd, .r0, s.regs.r0⟩, ⟨.cpu, .rd, .r2, 0x00⟩, ⟨.cpu, .wr, .r3, b⟩] } := by
  have ht0 := h.exec_t0_C hC
  simp only [hen, Bool.true_eq_false, if_false] at ht0
  have hts := (h.goto (s.record .cpu .rd .r0 s.regs.r0) .ts).exec_ts hC
  simp only [State.cpuGoto_regs, State.record_regs, hfree, ne_eq, not_true_eq_false, if_false] at hts
  rw [phases_three ht0 hts ((h.goto _ _).exec_t1_C hC), State.cpuWrite_r3_C (by simpa using hC)]
  simp [State.record, State.cpuGoto, State.cpuDone, hset]

/-- Settles O44: both operations start at T0, where the slot is free. -/
theorem transmitSendsWhenFree : Obligations.TransmitSendsWhenFree := by
  unfold Obligations.TransmitSendsWhenFree
  intro s b i hc hi
  obtain ⟨lat, h⟩ : ∃ lat, Sends b s i lat .t0 := by
    rcases hi with rfl | ⟨rfl, hres⟩
    · exact ⟨_, .xmitStart hc⟩
    · exact ⟨_, .xmitrStart hc hres⟩
  refine ⟨fun hAB hfree => ?_, fun hC hset hen hfree => ?_⟩
  · have hC := not_C_of_A_or_B hAB
    have hbits : ∀ v : Byte, v &&& 0x03 = 0x02 → v &&& 0x02 ≠ 0 ∧ v &&& 0x01 = 0 := by decide
    obtain ⟨hen, hfull⟩ := hbits _ hfree
    have hen' : enTest s.cfg s.regs.r2 = true := by simpa [enTest, anyBit, enMask_not_C hC] using hen
    have hfull' : fullTest s.regs.r2 = false := by simpa [fullTest, anyBit, fullMask] using hfull
    rw [h.phases_free_not_C hC hen' hfull', hc]
  · have hen' : enTest s.cfg s.regs.r0 = true := by simpa [enTest, anyBit, enMask_C hC] using hen
    rw [h.phases_free_C hC hset hen' hfree, hc]

/-! ### A detach under a spinning `XMIT` -/

section Disabled

variable {b : Byte} {s : State} {i : Instr} {lat : Content}

theorem Sends.phases_t0_disabled (h : Sends b s i lat .t0) (hen : chanEn s.cfg s.regs .tx = false) :
    ∃ es, phases 1 i s = .next { s with history := es, cur := .idle, pc := s.pc + 1 } := by
  obtain ⟨r, v, ht0⟩ := h.exec_t0_disabled hen
  exact ⟨_, phases_succ ht0 0⟩

/-- A TS that finds the status busy goes back to T0, which finds the channel disabled (R147, R150). -/
theorem Sends.phases_ts_disabled (h : Sends b s i lat .ts) (hC : s.cfg.variant = .C) (hbusy : s.regs.r2 ≠ 0)
    (hen : chanEn s.cfg s.regs .tx = false) :
    ∃ es, phases 2 i s = .next { s with history := es, cur := .idle, pc := s.pc + 1 } := by
  have hts := h.exec_ts hC
  rw [if_pos hbusy] at hts
  obtain ⟨es, ht0⟩ := (h.goto (s.record .cpu .rd .r2 s.regs.r2) .t0).phases_t0_disabled hen
  exact ⟨es, (phases_succ hts 1).trans ht0⟩

end Disabled

/-- A detach that reaches a direction clears its enable register and is done (R30, R173, R175). -/
theorem exec_of_detaches {d : Dir} {i : Instr} {s : State} (hd : detaches s.cfg d i = true) :
    exec i s = .next (s.probeWrite (enReg s.cfg d) 0x00).probeDone := by
  cases d with
  | rx =>
    have hi : i = .detrx ∨ (s.cfg.variant = .C ∧ i = .dettx) := by simpa [detaches] using hd
    rcases hi with rfl | ⟨hC, rfl⟩
    · rfl
    · simp only [exec, execDettx, probeStore, enReg, txEnReg_C hC]
  | tx =>
    have hi : i = .dettx ∨ (s.cfg.variant = .C ∧ i = .detrx) := by simpa [detaches] using hd
    rcases hi with rfl | ⟨hC, rfl⟩
    · rfl
    · simp only [exec, execDetrx, probeStore, enReg, txEnReg_C hC]

/-- Settles O47: the detach leaves T0 a clear enable to find; in C a TS that is busy goes back to T0 first. -/
theorem detachCancelsSpinningXmit : Obligations.DetachCancelsSpinningXmit := by
  unfold Obligations.DetachCancelsSpinningXmit
  intro s t b d lat hd ht
  rw [exec_of_detaches hd] at ht
  cases ht
  have hen : chanEn s.cfg (s.regs.set (enReg s.cfg .tx) 0x00) .tx = false :=
    (chanEn_set_enReg ..).trans ((if_pos (.inl rfl)).trans (enTest_zero _))
  have hsends : ∀ {ph lat}, s.cur = .busy (.xmit b) ph lat →
      Sends b (s.probeWrite (enReg s.cfg .tx) 0x00).probeDone (.xmit b) .unwritten ph := fun hc => .xmit hc
  refine ⟨fun hc => (hsends hc).phases_t0_disabled hen, fun hC hc hbusy => (hsends hc).phases_ts_disabled hC ?_ hen⟩
  simpa [enReg, txEnReg_C hC] using hbusy

end Sys2Proof.Machine
end

section
/-!
SUPPORT. Proofs for the channel operations family: what every step keeps where raw writes are avoided, in states that need not be those of
a run, and the attached block from which both slots start (R142, R152).
-/

namespace Sys2Proof.Machine

/-! ### RX full only while enabled -/

/-- What every operation keeps that is none of those avoided, and the use of a turn and of a schedule's first word too, every step keeps,
whatever the records. -/
theorem step_keeps_of_avoids {bad : Instr → Bool} {P : State → Prop}
    (hexec : ∀ i s t, bad i = false → P s → exec i s = .next t → P t) (hturn : ∀ s : State, P s → P s.takeTurn)
    (hsched : ∀ (s : State) ws, P s → P { s with psched := ws }) {s t : State} (hav : s.avoids bad = true) (hs : P s)
    (h : step s = .next t) : P t := by
  obtain ⟨hprog, hpsched, hcur, hpcur⟩ := avoids_iff.mp ((avoids_takeTurn s bad).trans hav)
  have hs' := hturn s hs
  rcases step_next h with ⟨-, h⟩ | ⟨-, h⟩
  · rcases cpuStep_next h with ⟨-, rfl⟩ | ⟨op, ph, lat, -, hc, h⟩ | ⟨w, i, -, -, hf, hd, h⟩
    · exact hs'
    · exact hexec op _ _ (avoided_of_busy (hc ▸ hcur)) hs' h
    · exact hexec i _ _ (avoided_of_mem hprog (List.mem_of_getElem? hf) (decodeFor_ok hd).1) hs' h
  · rcases probeStep_next h with ⟨-, -, rfl⟩ | ⟨op, ph, lat, hc, h⟩ | ⟨w, ws, i, -, hws, hd, h⟩
    · exact hs'
    · exact hexec op _ _ (avoided_of_busy (hc ▸ hpcur)) hs' h
    · exact hexec i _ _ (avoided_of_mem hpsched (hws ▸ List.mem_cons_self) (decodeFor_ok hd).1) (hsched _ ws hs') h

/-- Outside raw writes no phase sets RX full, or clears the RX enable under it (R31, R172, R173, R176). -/
theorem Writes.rxFullOnlyEnabled {c : Config} {i : Instr} {g g' : RegFile} (h : Writes c i g g') (hraw : rawWrite i = false)
    (hg : fullTest g.r0 = true → enTest c g.r0 = true) (hfull : fullTest g'.r0 = true) : enTest c g'.r0 = true := by
  cases ha : i.agent with
  | cpu =>
    obtain ⟨hen, -, hrx, -⟩ := h.cpu_fields hraw ha
    exact (hen .rx).trans (hg (hrx hfull))
  | probe =>
    rcases h.probe_r0 ha hraw with hr | hr | hr | hr <;> rw [hr] at hfull ⊢
    · exact hg hfull
    · exact absurd hfull (ne_true_of_eq_false fullTest_zero)
    · exact enTest_enMask c
    · exact enTest_enFull c

/-- Settles O18: no phase outside raw writes breaks the condition, and the words and records still hold none. -/
theorem protocolKeepsRxFullOnlyEnabled : Obligations.ProtocolKeepsRxFullOnlyEnabled := by
  unfold Obligations.ProtocolKeepsRxFullOnlyEnabled
  rintro s t ⟨hrx, hav⟩ h
  obtain ⟨hprog, hpsched, hrecords⟩ := avoids_iff.mp hav
  obtain ⟨hrx', hrecords'⟩ := step_keeps_of_avoids
    (P := fun u => u.RxFullOnlyEnabled ∧ u.cur.avoids rawWrite = true ∧ u.pcur.avoids rawWrite = true)
    (fun i u v hraw ⟨hu, hrec⟩ hexec => by
      refine ⟨?_, exec_records_avoid hraw hrec hexec⟩
      rw [State.RxFullOnlyEnabled, exec_cfg_eq hexec]
      exact (exec_phase hexec).writes.rxFullOnlyEnabled hraw hu)
    (fun u hu => by simpa [State.RxFullOnlyEnabled] using hu) (fun _ _ hu => hu) hav ⟨hrx, hrecords⟩ h
  refine ⟨hrx', avoids_iff.mpr ⟨?_, wordsAvoid_of_suffix (step_psched_suffix h) hpsched, hrecords'⟩⟩
  rwa [(configAndProgramAreFixed s t h).2]

/-! ### The attached block -/

/-- A step of the probe agent that starts an attach of either direction (R172, R174). -/
theorem step_attachOf {s : State} {d : Dir} {ws : List CmdWord} {as : List Agent} (hpcur : s.pcur = .idle)
    (hsched : s.psched = encode (attachOf d) :: ws) (hturns : s.turns = .probe :: as) :
    step s = .next ({ s with psched := ws, turns := as }.probeWrite (enReg s.cfg d) (enMask s.cfg)).probeDone := by
  obtain ⟨hturn, -⟩ := stepFollowsInterleaving
  obtain ⟨-, -, hruns, -⟩ := probeStepRunsDecodedWord
  have hd : decodeFor .probe (encode (attachOf d)) = .ok (attachOf d) := by
    cases d with
    | rx => exact decodeFor_encode .attrx
    | tx => exact decodeFor_encode .atttx
  rw [hturn s .probe as hturns, hruns { s with turns := as } _ ws _ hpcur hsched hd]
  cases d <;> rfl

/-- The registers once both directions are attached. -/
def attachedRegs (c : Config) (g : RegFile) : RegFile :=
  (g.set (enReg c .rx) (enMask c)).set (enReg c .tx) (enMask c)

theorem chanEn_attachedRegs (c : Config) (g : RegFile) (d : Dir) : chanEn c (attachedRegs c g) d = true := by
  rw [attachedRegs, chanEn_set_enReg, chanEn_set_enReg, enTest_enMask]
  cases d <;> simp

/-- Both directions are empty after the attaches, in C where no status was set (R172, R174). -/
theorem chanFull_attachedRegs {c : Config} {g : RegFile} (hg : busyTest c g.r2 = false) (d : Dir) :
    chanFull c (attachedRegs c g) d = false := by
  rw [attachedRegs, chanFull_set_enReg, chanFull_set_enReg, fullTest_enMask]
  cases d <;> simp [hg]

/-- A slot that is empty, with both sides away and every byte taken, keeps its books. -/
theorem Slot.Ok.of_empty {c : Slot} (hfull : c.full = false) (hmarking : c.marking = false) (hseen : c.seen = false)
    (hlatched : c.latched = none) (hbooks : c.put = c.got) : c.Ok :=
  ⟨fun _ => hfull, by simp [hseen], by simp [hlatched], by simp [Slot.pending, hfull, hmarking, hbooks]⟩

/-- The block that a probe has attached in both directions after reset, with the program, schedule and turns still to run. -/
def attached (c : Config) (prog psched : List CmdWord) (turns : List Agent) : State :=
  { (State.resetOf c).load prog psched turns with
    regs := attachedRegs c RegFile.reset
    history := [⟨.probe, .wr, enReg c .rx, enMask c⟩, ⟨.probe, .wr, enReg c .tx, enMask c⟩] }

section Attached

variable (c : Config) (prog psched : List CmdWord) (turns : List Agent)

/-- The words of `ATTRX` and `ATTTX`, taken first, lead there from a loaded reset. -/
theorem steps_to_attached :
    ∃ t, step ((State.resetOf c).load prog (0xA000 :: 0xA800 :: psched) (.probe :: .probe :: turns)) = .next t ∧
      step t = .next (attached c prog psched turns) :=
  ⟨_, step_attachOf (d := .rx) rfl rfl rfl, step_attachOf (d := .tx) rfl rfl rfl⟩

theorem attached_full (d : Dir) : chanFull c (attached c prog psched turns).regs d = false :=
  chanFull_attachedRegs (busyTest_zero c) d

theorem attached_txSlot_ok : (attached c prog psched turns).txSlot.Ok :=
  .of_empty (attached_full c prog psched turns .tx) rfl rfl rfl rfl

theorem attached_rxSlot_ok : (attached c prog psched turns).rxSlot.Ok := by
  have hr1 : txEnReg c ≠ .r1 := by cases hv : c.variant <;> simp [txEnReg, hv]
  refine .of_empty (attached_full c prog psched turns .rx) rfl rfl rfl ?_
  simp [State.rxSlot, attached, deliveredBytes, enReg, hr1, State.load, State.resetOf]

end Attached

/-- Settles O17: the two steps keep the invariant and the coherence of the reset state, and leave both slots empty and both agents idle. -/
theorem attachedBlockMeetsSlots : Obligations.AttachedBlockMeetsSlots := by
  unfold Obligations.AttachedBlockMeetsSlots
  intro c prog psched turns hwf hprog hpsched hset
  obtain ⟨hinv, hcoh, -⟩ := resetMeetsInvariants c prog (0xA000 :: 0xA800 :: psched) (.probe :: .probe :: turns) hwf
  obtain ⟨t, h1, h2⟩ := steps_to_attached c prog psched turns
  have hinv' := stepKeepsInv _ _ (stepKeepsInv _ _ hinv h1) h2
  have hcoh' := stepKeepsHistoryCoherent _ _ (stepKeepsHistoryCoherent _ _ hcoh h1) h2
  have hav : (attached c prog psched turns).avoids breaksSlot = true := avoids_iff.mpr ⟨hprog, hpsched, rfl, rfl⟩
  refine ⟨t, _, h1, h2, txSlot_iff.mpr ⟨hinv', hav, hset, attached_txSlot_ok ..⟩,
    rxSlot_iff.mpr ⟨hinv', hav, attached_rxSlot_ok ..⟩, hcoh', rfl, rfl, fun d => ?_⟩
  have hen : chanEn c (attached c prog psched turns).regs d = true := chanEn_attachedRegs c _ d
  exact (chanState_of_chanEn hen).trans (by rw [attached_full]; rfl)

end Sys2Proof.Machine
end

section
/-!
SUPPORT. Proofs for the probe operations family (43_probe_ops.md). One equation for each action, and for each phase of `PUTRX` and
`TAKETX`, gives the whole state it leaves; the transfers are three of those in a row.
-/

namespace Sys2Proof.Machine

/-! ### The actions of one access -/

theorem exec_prd (s : State) (r : RegIx) :
    exec (.prd r) s = portRead .probe (.prd r) r s fun v t => .next (t.setPres v).probeDone := rfl

theorem exec_prd_byte {s : State} {r : RegIx} {v : Byte} (h : s.regs.get r = .byte v) :
    exec (.prd r) s = .next ((s.record .probe .rd r v).setPres v).probeDone := by
  rw [exec_prd, portRead_byte h]

theorem exec_prd_unwritten {s : State} {r : RegIx} (h : s.regs.get r = .unwritten) :
    exec (.prd r) s = .fault (.unwrittenRead (faultRecord .probe (.prd r) (some r) s)) := by
  rw [exec_prd, portRead_unwritten h]

theorem exec_pwr (s : State) (r : RegIx) (v : Byte) : exec (.pwr r v) s = .next (s.probeWrite r v).probeDone := rfl

/-- An attach writes the enable register of its own direction, enabled and empty (R172, R174). -/
theorem exec_attachOf (s : State) (d : Dir) :
    exec (attachOf d) s = .next (s.probeWrite (enReg s.cfg d) (enMask s.cfg)).probeDone := by
  cases d <;> rfl

/-- A detach clears the enable register of its own direction (R173, R175). -/
theorem exec_detachOf (s : State) (d : Dir) :
    exec (detachOf d) s = .next (s.probeWrite (enReg s.cfg d) 0x00).probeDone :=
  exec_of_detaches ((detaches_detachOf s.cfg d d).mpr (.inl rfl))

theorem exec_pclrst_not_C {s : State} (hC : s.cfg.variant ≠ .C) : exec .pclrst s = .refused .notInVariant := by
  cases hv : s.cfg.variant with
  | A | B => simp only [exec, execPclrst, hv]
  | C => exact absurd hv hC

theorem exec_pclrst_C {s : State} (hC : s.cfg.variant = .C) : exec .pclrst s = .next (s.probeWrite .r2 0x00).probeDone := by
  simp only [exec, execPclrst, hC, probeStore]

/-! ### The enable register by variant -/

theorem enReg_rx (c : Config) : enReg c .rx = .r0 := rfl

theorem enReg_tx_not_C {c : Config} (hC : c.variant ≠ .C) : enReg c .tx = .r2 := txEnReg_not_C hC

theorem enReg_C {c : Config} (hC : c.variant = .C) (d : Dir) : enReg c d = .r0 := by
  cases d with
  | rx => rfl
  | tx => exact txEnReg_C hC

theorem enMask_eq_ite (c : Config) : enMask c = if c.variant = .C then cEnMask c else 0x02 := by
  by_cases hC : c.variant = .C
  · rw [enMask_C hC, if_pos hC]
  · rw [enMask_not_C hC, if_neg hC]

/-! ### The phases of `PUTRX` -/

/-- P0 is the first phase; one read serves both tests, enable first (R176). -/
theorem exec_putrx_p0 {b : Byte} {s : State} (hc : s.pcur = .idle ∨ ∃ lat, s.pcur = .busy (.putrx b) .p0 lat) :
    exec (.putrx b) s = .next (if enTest s.cfg s.regs.r0 = false then (s.record .probe .rd .r0 s.regs.r0).probeDone
      else (s.record .probe .rd .r0 s.regs.r0).probeGoto (.putrx b) (if fullTest s.regs.r0 then .p0 else .p1) .unwritten) := by
  have hp0 : exec (.putrx b) s = putrxP0 b s := by
    rcases hc with h | ⟨lat, h⟩ <;> simp only [exec, execPutrx, h]
  rw [hp0, putrxP0, portRead_byte s.regs.get_r0]
  cases fullTest s.regs.r0 <;> rfl

theorem exec_putrx_p1 {b : Byte} {s : State} {lat : Content} (hc : s.pcur = .busy (.putrx b) .p1 lat) :
    exec (.putrx b) s = .next ((s.probeWrite .r1 b).probeGoto (.putrx b) .p2 .unwritten) := by
  simp only [exec, execPutrx, hc, putrxP1]

theorem exec_putrx_p2 {b : Byte} {s : State} {lat : Content} (hc : s.pcur = .busy (.putrx b) .p2 lat) :
    exec (.putrx b) s = .next (s.probeWrite .r0 (enMask s.cfg ||| fullMask)).probeDone := by
  simp only [exec, execPutrx, hc, putrxP2, probeStore]

/-! ### The phases of `TAKETX` -/

theorem exec_taketx_not_C {s : State} (hC : s.cfg.variant ≠ .C) : exec .taketx s = taketxAt taketxP0AB s := by
  cases hv : s.cfg.variant with
  | A | B => simp only [exec, execTaketx, hv]
  | C => exact absurd hv hC

theorem exec_taketx_C {s : State} (hC : s.cfg.variant = .C) (hset : s.cfg.statusSetOnCpuWrite = true) :
    exec .taketx s = taketxAt taketxP0C s := by
  simp only [exec, execTaketx, hC, if_pos hset]

theorem exec_taketx_refused {s : State} (hC : s.cfg.variant = .C) (hset : s.cfg.statusSetOnCpuWrite = false) :
    exec .taketx s = .refused .notInVariant := by
  simp [exec, execTaketx, hC, hset]

theorem taketxAt_p0 {s : State} (hc : s.pcur = .idle ∨ ∃ lat, s.pcur = .busy .taketx .p0 lat) (p0 : State → Out) :
    taketxAt p0 s = p0 s := by
  rcases hc with h | ⟨lat, h⟩ <;> simp only [taketxAt, h]

/-- P0 in A and B: one read of `TXF` serves both tests, enable first (R177). -/
theorem exec_taketx_p0_not_C {s : State} (hC : s.cfg.variant ≠ .C)
    (hc : s.pcur = .idle ∨ ∃ lat, s.pcur = .busy .taketx .p0 lat) :
    exec .taketx s = .next (if enTest s.cfg s.regs.r2 = false then (s.record .probe .rd .r2 s.regs.r2).probeDone
      else (s.record .probe .rd .r2 s.regs.r2).probeGoto .taketx (if fullTest s.regs.r2 then .p1 else .p0) .unwritten) := by
  rw [exec_taketx_not_C hC, taketxAt_p0 hc, taketxP0AB, portRead_byte s.regs.get_r2]
  cases fullTest s.regs.r2 <;> rfl

/-- P0 in C: the status alone is tested (R178). -/
theorem exec_taketx_p0_C {s : State} (hC : s.cfg.variant = .C) (hset : s.cfg.statusSetOnCpuWrite = true)
    (hc : s.pcur = .idle ∨ ∃ lat, s.pcur = .busy .taketx .p0 lat) :
    exec .taketx s = .next ((s.record .probe .rd .r2 s.regs.r2).probeGoto .taketx
      (if s.regs.r2 = 0 then .p0 else .p1) .unwritten) := by
  rw [exec_taketx_C hC hset, taketxAt_p0 hc, taketxP0C, portRead_byte s.regs.get_r2]
  split <;> rfl

section Taketx

/-! The variants that have the action differ in P0 alone (R177, R178). -/

variable {s : State} (hhas : s.cfg.variant = .C → s.cfg.statusSetOnCpuWrite = true)

include hhas

theorem exec_taketx_eq_taketxAt : ∃ p0, exec .taketx s = taketxAt p0 s := by
  by_cases hC : s.cfg.variant = .C
  · exact ⟨_, exec_taketx_C hC (hhas hC)⟩
  · exact ⟨_, exec_taketx_not_C hC⟩

theorem exec_taketx_p1 {lat : Content} (hc : s.pcur = .busy .taketx .p1 lat) : exec .taketx s = taketxP1 s := by
  obtain ⟨p0, hp0⟩ := exec_taketx_eq_taketxAt hhas
  simp only [hp0, taketxAt, hc]

theorem exec_taketx_p1_byte {lat : Content} {v : Byte} (hc : s.pcur = .busy .taketx .p1 lat) (hr : s.regs.r3 = .byte v) :
    exec .taketx s = .next ((s.record .probe .rd .r3 v).probeGoto .taketx .p2 (.byte v)) := by
  rw [exec_taketx_p1 hhas hc, taketxP1, portRead_byte (s.regs.get_r3.trans hr)]

theorem exec_taketx_p1_unwritten {lat : Content} (hc : s.pcur = .busy .taketx .p1 lat) (hr : s.regs.r3 = .unwritten) :
    exec .taketx s = .fault (.unwrittenRead (faultRecord .probe .taketx (some .r3) s)) := by
  rw [exec_taketx_p1 hhas hc, taketxP1, portRead_unwritten (s.regs.get_r3.trans hr)]

theorem exec_taketx_p2 {v : Byte} (hc : s.pcur = .busy .taketx .p2 (.byte v)) :
    exec .taketx s = .next (((s.probeWrite .r2 (takenValue s.cfg)).setPres v).logProbe v).probeDone := by
  obtain ⟨p0, hp0⟩ := exec_taketx_eq_taketxAt hhas
  simp only [hp0, taketxAt, hc]
  rfl

/-- P0 of an occupied slot goes on, where TX is enabled (R177, R178). -/
theorem exec_taketx_p0_full (hc : s.pcur = .idle) (hen : chanEn s.cfg s.regs .tx = true)
    (hfull : chanFull s.cfg s.regs .tx = true) :
    exec .taketx s = .next ((s.record .probe .rd .r2 s.regs.r2).probeGoto .taketx .p1 .unwritten) := by
  rw [chanFull_tx] at hfull
  by_cases hC : s.cfg.variant = .C
  · have hne : s.regs.r2 ≠ 0 := by simpa [busyTest_C hC] using hfull
    rw [exec_taketx_p0_C hC (hhas hC) (.inl hc), if_neg hne]
  · rw [chanEn_tx_not_C hC] at hen
    rw [busyTest_not_C hC] at hfull
    rw [exec_taketx_p0_not_C hC (.inl hc), if_neg (by simp [hen]), if_pos hfull]

end Taketx

theorem takenValue_not_C {c : Config} (hC : c.variant ≠ .C) : takenValue c = 0x02 := by
  cases hv : c.variant with
  | A | B => simp [takenValue, enMaskAB, hv]
  | C => exact absurd hv hC

theorem takenValue_C {c : Config} (hC : c.variant = .C) : takenValue c = 0x00 := by
  simp [takenValue, hC]

/-! ### The transfers complete -/

/-- In B the value P2 writes is exactly the one `POLL` compares with (R142, R176). -/
theorem pollTest_enFull (c : Config) : pollTest c (enMask c ||| fullMask) = true := by
  by_cases hB : c.variant = .B
  · rw [pollTest_B hB, enMask_not_C (by simp [hB])]
    decide
  · rw [pollTest_not_B hB, fullTest_enFull]

theorem chanState_enabledEmpty_iff {c : Config} {g : RegFile} {d : Dir} :
    chanState c g d = .enabledEmpty ↔ chanEn c g d = true ∧ chanFull c g d = false := by
  cases hen : chanEn c g d <;> cases hfull : chanFull c g d <;> simp [chanState, hen, hfull]

theorem chanState_enabledFull_iff {c : Config} {g : RegFile} {d : Dir} :
    chanState c g d = .enabledFull ↔ chanEn c g d = true ∧ chanFull c g d = true := by
  cases hen : chanEn c g d <;> cases hfull : chanFull c g d <;> simp [chanState, hen, hfull]

/-- An enabled, empty RX channel takes the byte in three phases, the payload before the mark (R176). -/
theorem phases_putrx {b : Byte} {s : State} (hc : s.pcur = .idle) (hen : enTest s.cfg s.regs.r0 = true)
    (hfull : fullTest s.regs.r0 = false) :
    phases 3 (.putrx b) s = .next
      { s with
        regs := { s.regs with r1 := .byte b, r0 := enMask s.cfg ||| fullMask }, pcur := .idle
        history := s.history ++
          [⟨.probe, .rd, .r0, s.regs.r0⟩, ⟨.probe, .wr, .r1, b⟩, ⟨.probe, .wr, .r0, enMask s.cfg ||| fullMask⟩] } := by
  have hp0 := exec_putrx_p0 (b := b) (.inl hc)
  simp only [hen, hfull, Bool.true_eq_false, Bool.false_eq_true, if_false] at hp0
  rw [phases_three hp0 (exec_putrx_p1 rfl) (exec_putrx_p2 rfl)]
  simp [State.probeWrite, State.record, State.store, State.probeGoto, State.probeDone]

/-- An enabled, full TX channel gives its payload in three phases, and is left empty (R177, R178). -/
theorem phases_taketx {s : State} {v : Byte} (hhas : s.cfg.variant = .C → s.cfg.statusSetOnCpuWrite = true)
    (hc : s.pcur = .idle) (hen : chanEn s.cfg s.regs .tx = true) (hfull : chanFull s.cfg s.regs .tx = true)
    (hr : s.regs.r3 = .byte v) :
    phases 3 .taketx s = .next
      { s with
        regs := s.regs.set .r2 (takenValue s.cfg), pres := .byte v, plog := s.plog ++ [v], pcur := .idle
        history := s.history ++
          [⟨.probe, .rd, .r2, s.regs.r2⟩, ⟨.probe, .rd, .r3, v⟩, ⟨.probe, .wr, .r2, takenValue s.cfg⟩] } := by
  rw [phases_three (exec_taketx_p0_full hhas hc hen hfull) (exec_taketx_p1_byte (by exact hhas) rfl hr)
    (exec_taketx_p2 (by exact hhas) rfl)]
  simp [State.probeWrite, State.record, State.store, State.setPres, State.logProbe, State.probeGoto, State.probeDone]

/-- Settles O57: each transfer is its three phases in a row, and its last write leaves the channel enabled. -/
theorem transferActionsComplete : Obligations.TransferActionsComplete := by
  unfold Obligations.TransferActionsComplete
  refine ⟨fun s b hc hstate => ?_, fun s v hc hstate hr hhas => ?_⟩
  · obtain ⟨hen, hfull⟩ := chanState_enabledEmpty_iff.mp hstate
    refine ⟨_, phases_putrx hc hen hfull, rfl, rfl, pollTest_enFull s.cfg, chanState_enabledFull_iff.mpr ⟨?_, ?_⟩⟩
    · exact enTest_enFull s.cfg
    · exact fullTest_enFull (enMask s.cfg)
  · obtain ⟨hen, hfull⟩ := chanState_enabledFull_iff.mp hstate
    refine ⟨_, phases_taketx hhas hc hen hfull hr, rfl, rfl, rfl, chanState_enabledEmpty_iff.mpr ⟨?_, ?_⟩⟩
    · exact (chanEn_take hen .tx).trans hen
    · exact chanFull_set_takenValue s.cfg s.regs

/-! ### The obligations of one action each -/

/-- Settles O51: a read by what the register holds, and a write of any register. -/
theorem probePortReadsAndWrites : Obligations.ProbePortReadsAndWrites := by
  unfold Obligations.ProbePortReadsAndWrites
  intro s r w
  exact ⟨by simp [encode, Instr.fields, wordOf], by simp [encode, Instr.fields, wordOf], exec_prd_unwritten,
    fun _ => exec_prd_byte, exec_pwr s r w⟩

/-- Settles O52: an attach writes the enable mask, in C that of `FLAGS` for both directions. -/
theorem attachWritesEnable : Obligations.AttachWritesEnable := by
  unfold Obligations.AttachWritesEnable
  intro s
  have hrx := exec_attachOf s .rx
  have htx := exec_attachOf s .tx
  refine ⟨by decide, by decide, fun hAB => ?_, fun hC i hi => ?_⟩
  · have hC := not_C_of_A_or_B hAB
    rw [enReg_rx, enMask_not_C hC] at hrx
    rw [enReg_tx_not_C hC, enMask_not_C hC] at htx
    exact ⟨hrx, htx⟩
  · rw [enReg_C hC, enMask_C hC] at hrx htx
    rcases hi with rfl | rfl
    · exact hrx
    · exact htx

/-- Settles O53: a detach writes zero, in C to `FLAGS` for both directions. -/
theorem detachClearsFlags : Obligations.DetachClearsFlags := by
  unfold Obligations.DetachClearsFlags
  intro s
  have htx := exec_detachOf s .tx
  refine ⟨by decide, by decide, exec_detachOf s .rx, fun hAB => ?_, fun hC => ?_⟩
  · rwa [enReg_tx_not_C (not_C_of_A_or_B hAB)] at htx
  · rwa [enReg_C hC] at htx

/-- Settles O58: refused in A and B, one write of the status in C. -/
theorem pclrstClearsStatus : Obligations.PclrstClearsStatus := by
  unfold Obligations.PclrstClearsStatus
  intro s
  exact ⟨by decide, fun hAB => exec_pclrst_not_C (not_C_of_A_or_B hAB), exec_pclrst_C⟩

/-! ### The obligations of the transfers' phases -/

/-- Settles O54: one equation for each phase, with the mask of the variant. -/
theorem putrxPhases : Obligations.PutrxPhases := by
  unfold Obligations.PutrxPhases
  intro s b m hm
  rw [← enMask_eq_ite] at hm
  subst hm
  refine ⟨by simp [encode, Instr.fields, wordOf], fun hc => ?_, fun _ hc => exec_putrx_p1 hc, fun _ hc => exec_putrx_p2 hc⟩
  rw [exec_putrx_p0 hc]
  simp only [enTest_eq_false_iff, fullTest_iff]
  split_ifs <;> rfl

/-- Settles O55: one equation for each phase, and the fault of P1. -/
theorem taketxPhasesAB : Obligations.TaketxPhasesAB := by
  unfold Obligations.TaketxPhasesAB
  intro s hAB
  have hC := not_C_of_A_or_B hAB
  have hhas : s.cfg.variant = .C → s.cfg.statusSetOnCpuWrite = true := fun h => absurd h hC
  refine ⟨by decide, fun hc => ?_, fun _ hc hr => exec_taketx_p1_unwritten hhas hc hr,
    fun _ _ hc hr => exec_taketx_p1_byte hhas hc hr, fun v hc => ?_⟩
  · rw [exec_taketx_p0_not_C hC hc]
    simp only [enTest_eq_false_iff, enMask_not_C hC, fullTest_iff, ite_not]
    split_ifs <;> rfl
  · rw [exec_taketx_p2 hhas hc, takenValue_not_C hC]
    rfl

/-- Settles O56: refused without the status of R34, else one equation for each phase, and the fault of P1. -/
theorem taketxPhasesC : Obligations.TaketxPhasesC := by
  unfold Obligations.TaketxPhasesC
  intro s hC
  refine ⟨by decide, exec_taketx_refused hC, fun hset => ?_⟩
  have hhas : s.cfg.variant = .C → s.cfg.statusSetOnCpuWrite = true := fun _ => hset
  refine ⟨fun hc => ?_, fun _ hc hr => exec_taketx_p1_unwritten hhas hc hr,
    fun _ _ hc hr => exec_taketx_p1_byte hhas hc hr, fun v hc => ?_⟩
  · rw [exec_taketx_p0_C hC hset hc]
    split_ifs <;> rfl
  · rw [exec_taketx_p2 hhas hc, takenValue_C hC]
    rfl

end Sys2Proof.Machine
end

section
/-!
SUPPORT. Proofs for the harness control family (44_harness_control.md): the CPU agent's step by its cases, the jumps by what `res`
holds, and a `HALT` that nothing takes back.
-/

namespace Sys2Proof.Machine

/-! ### The CPU agent's step -/

theorem cpuStep_of_halted {s : State} (hh : s.halted = true) : cpuStep s = .next s := if_pos hh

theorem fetch_of_pc_past_end {s : State} (hpc : s.prog.length ≤ s.pc) : s.fetch = none := List.getElem?_eq_none hpc

theorem cpuStep_of_fetch_none {s : State} (hh : s.halted = false) (hc : s.cur = .idle) (hf : s.fetch = none) :
    cpuStep s = .fault (fetchFault s) := by
  simp [cpuStep, hh, hc, hf]

theorem cpuStep_of_fetch_refused {s : State} {w : CmdWord} {e : DecodeError} (hh : s.halted = false) (hc : s.cur = .idle)
    (hf : s.fetch = some w) (hd : decodeFor .cpu w = .error e) : cpuStep s = .refused (decodeRefusal e) := by
  simp [cpuStep, hh, hc, hf, hd]

/-- Settles O10, by the cases of the CPU agent's step. -/
theorem cpuStepRunsDecodedWord : Obligations.CpuStepRunsDecodedWord := by
  unfold Obligations.CpuStepRunsDecodedWord
  refine ⟨fun s hh => ?_, fun s op ph lat hh hc => ?_, fun s hh hc hpc => ?_, fun s w i hh hc hf hd => ?_,
    fun s w e hh hc hf hd => ?_⟩
  · exact cpuStep_of_halted hh
  · exact cpuStep_of_busy hh hc
  · exact cpuStep_of_fetch_none hh hc (fetch_of_pc_past_end hpc)
  · exact cpuStep_of_fetch hh hc hf hd
  · exact cpuStep_of_fetch_refused hh hc hf hd

/-! ### The jumps -/

/-- The word of a code and an immediate, as format i has it (R80, R81). -/
theorem wordOf_op_imm (op : BitVec 6) (b : Byte) : wordOf ⟨op, 0, b⟩ = op.setWidth 16 <<< 10 ||| b.setWidth 16 := by
  simp [wordOf]

theorem readRes_unwritten {op : Instr} {s : State} (h : s.res = .unwritten) (k : Byte → Out) :
    readRes op s k = .fault (.resUnwritten (faultRecord .cpu op none s)) := by
  simp [readRes, h]

/-- A jump taken under a condition, else the next word: the two differ in `pc` alone (R200, R204). -/
theorem jumpTo_or_cpuDone (p : Prop) [Decidable p] (s : State) (n : Nat) :
    (if p then s.jumpTo n else s.cpuDone) = { s with pc := if p then n else s.pc + 1, cur := .idle } := by
  split_ifs <;> rfl

theorem exec_jz_byte {s : State} {v : Byte} (h : s.res = .byte v) (t : Byte) :
    exec (.jz t) s = .next { s with pc := if v = 0x00 then t.toNat else s.pc + 1, cur := .idle } := by
  rw [← jumpTo_or_cpuDone]
  exact readRes_byte h _

theorem exec_jnz_byte {s : State} {v : Byte} (h : s.res = .byte v) (t : Byte) :
    exec (.jnz t) s = .next { s with pc := if v ≠ 0x00 then t.toNat else s.pc + 1, cur := .idle } := by
  rw [← jumpTo_or_cpuDone, ite_not]
  exact readRes_byte h _

/-- Settles O49: `JMP` by its definition, `JZ` and `JNZ` by what `res` holds. -/
theorem jumpsSetPc : Obligations.JumpsSetPc := by
  unfold Obligations.JumpsSetPc
  intro s t
  exact ⟨wordOf_op_imm 0x18 t, wordOf_op_imm 0x19 t, wordOf_op_imm 0x1A t, rfl,
    fun h => ⟨readRes_unwritten h _, readRes_unwritten h _⟩, fun _ h => ⟨exec_jz_byte h t, exec_jnz_byte h t⟩⟩

/-! ### `HALT` -/

theorem Access.halted_eq {ag : Agent} {s m : State} (h : Access ag s m) : m.halted = s.halted := by
  obtain ⟨_, _, rfl⟩ := h.frame
  rfl

/-- No operation of either agent clears `halted`: only `HALT` writes it. -/
theorem exec_keeps_halted {i : Instr} {s t : State} (hs : s.halted = true) (h : exec i s = .next t) : t.halted = true := by
  obtain ⟨m, ha, he⟩ := exec_transition h
  by_cases hi : i = .halt
  · subst hi
    cases h
    rfl
  · rw [he.halted_eq hi, ha.halted_eq, hs]

theorem cpuEnabled_eq_false_iff {s : State} : s.cpuEnabled = false ↔ s.halted = true := by
  simp [State.cpuEnabled]

/-- Settles O50: what no operation clears, no step clears. -/
theorem haltEndsProgram : Obligations.HaltEndsProgram := by
  unfold Obligations.HaltEndsProgram
  refine ⟨fun s => ⟨by decide, rfl, rfl⟩, fun s t => ?_⟩
  rw [cpuEnabled_eq_false_iff, cpuEnabled_eq_false_iff]
  exact step_keeps (fun _ _ _ => exec_keeps_halted) (fun u hu => u.takeTurn_halted.trans hu) (fun _ _ hu => hu) s t

end Sys2Proof.Machine
end

section
/-!
SUPPORT. Proofs for the reset and hazards family (70_reset_and_hazards.md): no phase of the sending operation after its tests reads the
enable again (R262), so after a detach there the write still lands. The next attach writes the enable's register, which holds the full
condition of TX in A and B and not in C.
-/

namespace Sys2Proof.Machine

/-! ### The writes that are left of a sending operation -/

section Writing

variable {b : Byte} {s : State} {i : Instr} {lat : Content}

/-- The probe's write of a register leaves the CPU agent's operation where it is (R24). -/
theorem Sends.probeWrite {ph : CpuPhase} (h : Sends b s i lat ph) (r : RegIx) (v : Byte) :
    Sends b (s.probeWrite r v).probeDone i lat ph := by
  cases h with
  | xmitStart hc => exact .xmitStart hc
  | xmit hc => exact .xmit hc
  | xmitrStart hc hres => exact .xmitrStart hc hres
  | xmitr hc => exact .xmitr hc

/-- T2 in A and B sets the full bit in a `TXF` that was cleared since the test (R146, R262). -/
theorem Sends.exec_t2_cleared (h : Sends b s i lat .t2) (hC : s.cfg.variant ≠ .C) (hclear : s.regs.r2 = 0x00) :
    ∃ u, exec i s = .next u ∧ u.cfg = s.cfg ∧ u.regs = { s.regs with r2 := 0x01 } := by
  refine ⟨_, h.exec_t2 hC, rfl, ?_⟩
  simp [setBits, fullMask, hclear]

/-- T1 writes the payload before it (R146, R262). -/
theorem Sends.phases_t1_cleared (h : Sends b s i lat .t1) (hC : s.cfg.variant ≠ .C) (hclear : s.regs.r2 = 0x00) :
    ∃ u, phases 2 i s = .next u ∧ u.cfg = s.cfg ∧ u.regs = { s.regs with r3 := .byte b, r2 := 0x01 } := by
  obtain ⟨u, ht2, hcfg, hregs⟩ := (h.goto ((s.store .r3 b).record .cpu .wr .r3 b) .t2).exec_t2_cleared hC hclear
  exact ⟨u, (phases_succ (h.exec_t1_not_C hC) 1).trans (phases_succ ht2 0), hcfg, hregs⟩

/-- T1 in C, where a CPU write of `MSG` sets the status (R34, R147). -/
theorem Sends.exec_t1_C_regs (h : Sends b s i lat .t1) (hC : s.cfg.variant = .C) (hset : s.cfg.statusSetOnCpuWrite = true) :
    ∃ u, exec i s = .next u ∧ u.cfg = s.cfg ∧ u.regs = { s.regs with r3 := .byte b, r2 := 0x01 } := by
  refine ⟨_, h.exec_t1_C hC, s.cpuWrite_cfg .r3 b, ?_⟩
  simp [State.cpuWrite_r3_C hC, hset]

end Writing

/-! ### The next attach -/

/-- In A and B a `TXF` with the full bit alone is that of a disabled channel, and an attach writes the full bit away (R174, R262). -/
theorem atttx_discards_stale_full {u : State} (hC : u.cfg.variant ≠ .C) (hfull : u.regs.r2 = 0x01) :
    ∃ v, chanState u.cfg u.regs .tx = .disabled ∧ exec .atttx u = .next v ∧ chanState v.cfg v.regs .tx = .enabledEmpty := by
  refine ⟨_, chanState_of_chanEn_false ?_, exec_attachOf u .tx, chanState_enabledEmpty_iff.mpr ⟨?_, ?_⟩⟩
  · rw [chanEn_tx_not_C hC, hfull, enTest, enMask_not_C hC]
    decide
  · simp [chanEn_set_enReg, enTest_enMask]
  · exact (chanFull_set_enReg ..).trans ((if_pos (by simp [hC])).trans (fullTest_enMask _))

/-- In C an attach writes `FLAGS` alone, so a status set before it makes the channel full (R174, R262). -/
theorem atttx_keeps_status {u : State} (hC : u.cfg.variant = .C) (hflags : u.regs.r0 = 0x00) (hstatus : u.regs.r2 = 0x01) :
    ∃ v, chanState u.cfg u.regs .tx = .disabled ∧ exec .atttx u = .next v ∧ chanState v.cfg v.regs .tx = .enabledFull := by
  refine ⟨_, chanState_of_chanEn_false ?_, exec_attachOf u .tx, chanState_enabledFull_iff.mpr ⟨?_, ?_⟩⟩
  · rw [chanEn_C hC, hflags, enTest_zero]
  · simp [chanEn_set_enReg, enTest_enMask]
  · simp [enReg_C hC, hstatus, busyTest_C hC]

/-! ### The obligation -/

/-- Settles O48: the detach clears the enable's register, the writes left of `XMIT` land, and the attach writes that register again. -/
theorem writeAfterDetachLands : Obligations.WriteAfterDetachLands := by
  unfold Obligations.WriteAfterDetachLands
  intro s b lat
  have hdet := exec_detachOf s .tx
  refine ⟨fun hAB => ?_, fun hC hset hc => ?_⟩
  · have hC := not_C_of_A_or_B hAB
    rw [enReg_tx_not_C hC] at hdet
    refine ⟨fun hc => ?_, fun hc => ?_⟩
    · obtain ⟨u, hsend, hcfg, hregs⟩ := ((Sends.xmit hc).probeWrite .r2 0x00).phases_t1_cleared hC rfl
      obtain ⟨v, hattach⟩ := atttx_discards_stale_full (hcfg ▸ hC) (congrArg RegFile.r2 hregs)
      exact ⟨_, u, v, hdet, hsend, hregs, hattach⟩
    · obtain ⟨u, hsend, hcfg, hregs⟩ := ((Sends.xmit hc).probeWrite .r2 0x00).exec_t2_cleared hC rfl
      obtain ⟨v, hattach⟩ := atttx_discards_stale_full (hcfg ▸ hC) (congrArg RegFile.r2 hregs)
      exact ⟨_, u, v, hdet, hsend, hregs, hattach⟩
  · rw [enReg_C hC] at hdet
    obtain ⟨u, hsend, hcfg, hregs⟩ := ((Sends.xmit hc).probeWrite .r0 0x00).exec_t1_C_regs hC hset
    obtain ⟨v, hattach⟩ := atttx_keeps_status (hcfg ▸ hC) (congrArg RegFile.r0 hregs) (congrArg RegFile.r2 hregs)
    exact ⟨_, u, v, hdet, hsend, hregs, hattach⟩

end Sys2Proof.Machine
end

section
/-!
SUPPORT. The words written out from the opcode map (30_encoding.md 2, 95_test_vectors.md 2.1). An accepted word is read by writing it as
its operation's encoding; a refused one by its code or its operand fields alone.
-/

namespace Sys2Proof

/-! ### One word in one agent's list -/

/-- The word of one of the agent's own operations decodes to it (R83). -/
theorem decodeFor_of_encode {a : Agent} {w : CmdWord} {i : Instr} (hw : encode i = w) (ha : i.agent = a) : decodeFor a w = .ok i :=
  hw ▸ ha ▸ decodeFor_encode i

/-- The word of an operation of the other agent is refused as such (R84). -/
theorem decodeFor_of_encode_other {a : Agent} {w : CmdWord} {i : Instr} (hw : encode i = w) (ha : i.agent ≠ a) :
    decodeFor a w = .error .wrongAgent := by
  rw [← hw, decodeFor_of_ok (decode_encode i), if_neg ha]

theorem decodeFor_of_no_op {a : Agent} {w : CmdWord} (h : ∀ k ∈ opTable, k.op ≠ (fieldsOf w).op) :
    decodeFor a w = .error .reservedOpcode :=
  decodeFor_of_error (decode_of_no_op h) a

/-- A field that must be zero and is not is refused in either agent's list, before the agent is asked for (R81, R84). -/
theorem decodeFor_of_unused {a : Agent} {w : CmdWord}
    (h : ∃ k ∈ opTable, k.op = (fieldsOf w).op ∧ k.fmt.unusedZero (fieldsOf w) = false) :
    decodeFor a w = .error .nonzeroUnusedField :=
  decodeFor_of_error (decode_nonzeroUnusedField_iff.mpr h) a

/-! ### The obligation -/

/-- Settles O5: the accepted words are their operations' encodings, and each refused word meets the condition of its reason. -/
theorem specWordsDecode : Obligations.SpecWordsDecode := by
  unfold Obligations.SpecWordsDecode
  refine ⟨?cwr, ?crd, ?cbs, ?cbc, ?lwrtx, ?xmit, ?xmitr, ?jz, ?pwr, ?taketx, ?reserved, ?unusedXmit, ?unusedAttrx, ?probeWord, ?cpuWord⟩
  case reserved => exact decodeFor_of_no_op (by decide)
  case unusedXmit | unusedAttrx => exact decodeFor_of_unused (by decide)
  case probeWord => exact decodeFor_of_encode_other (i := .attrx) rfl (by decide)
  case cpuWord => exact decodeFor_of_encode_other (i := .poll) rfl (by decide)
  all_goals exact decodeFor_of_encode rfl rfl

end Sys2Proof
end
